-- ==== Sys2Proof/Word.lean ====
section
/-! DEFINITION. The machine's word types (spec/00_scope.md R7, R12; spec/30_encoding.md R90). -/

namespace Sys2Proof

/-- A byte: 8 bits (R7, R12). Bus addresses, sensor register addresses and register values are bytes. -/
abbrev Byte := BitVec 8

/-- A word: 16 bits (R12). Each raw sample is one word (R7). -/
abbrev Word := BitVec 16

/-- A command word on the command port: 32 bits (R34, R90). -/
abbrev CommandWord := BitVec 32

/-- The bit pattern of a binary32 value (R10, R29). -/
abbrev Float32Bits := BitVec 32

end Sys2Proof
end

