-- ==== Sys2Proof/Config.lean ====
section
/-! DEFINITION. The implementation parameters of spec/00_scope.md R8 to R11 and the free values of the
transport (spec/20_memory.md R72). The parameters that have two values (R8, R9) stand in `Params`, which
State carries so that every statement covers every choice; the others are constants here. -/

namespace Sys2Proof

/-- `SCAN_MODE` (R8). -/
inductive ScanMode where
  | bounded
  | fullScan
  deriving DecidableEq, Repr

/-- `RAW_SIGNEDNESS` (R9, R28). -/
inductive RawSignedness where
  | signed
  | referenceUnsigned
  deriving DecidableEq, Repr

/-- `TEMP_FORMULA` (R9, R216, R217). -/
inductive TempFormula where
  | datasheet
  | reference
  deriving DecidableEq, Repr

/-- The three parameters of R8 and R9 that take one of two values. Fixed for a machine: no command
writes them. -/
structure Params where
  scanMode : ScanMode
  rawSignedness : RawSignedness
  tempFormula : TempFormula
  deriving DecidableEq, Repr

/-- The defaults of R8 and R9. -/
def Params.default : Params :=
  { scanMode := .bounded, rawSignedness := .signed, tempFormula := .datasheet }

/-- The status a transaction answers with (R15, R70). -/
inductive Status where
  | ok
  | timeout
  | busy
  | error
  deriving DecidableEq, Repr, Inhabited

/-- ErrorKind: the success value and the five failure kinds (spec/60_exceptions.md R250). -/
inductive ErrorKind where
  | noError
  | notConfigured
  | deviceNotFound
  | timeout
  | busy
  | transportError
  deriving DecidableEq, Repr

namespace Config

/-- `TIMEOUT`, passed with every transport call; its unit is not given (R11(a), R264). -/
def timeout : Nat := 5000

/-- `INIT_SCAN_LO`, the first address Initialize probes (R11(c), R174). -/
def initScanLo : Nat := 1

/-- `INIT_SCAN_HI`, one past the last address Initialize probes (R11(c), R174). -/
def initScanHi : Nat := 255

/-- `ERR_MSG`, OPEN (R11(b), R31): nothing says what the text of a kind is. -/
opaque errMsg : ErrorKind → String

/-- `GYRO_OUTPUT_RATE`, OPEN (R11(d)); no rule of the block reads it (R127). -/
opaque gyroOutputRate : Rat

/-- FREE VALUE (R72): the status the transport answers transaction number `n` with, where the state
lists no answer for it. -/
opaque freeStatus : Nat → Status

/-- FREE VALUE (R72): byte `j` of an `Ok` read that is transaction number `n`, where the state lists no
byte for it. -/
opaque freeByte : Nat → Nat → Byte

end Config

end Sys2Proof
end

