-- ==== Sys2Proof/Syntax.lean ====
section
/-! DEFINITION. The commands as syntax: one constructor per row of spec/opcode_table.json
(spec/30_encoding.md R91, R92). A range operand is typed by its four settings (spec/10_state.md R26), so no
fifth value can be written. -/

namespace Sys2Proof

/-- The accelerometer ranges, in the order of their codes (R23, R96). -/
inductive AccelRange where
  | g2
  | g4
  | g8
  | g16
  deriving DecidableEq, Repr

/-- The gyroscope ranges, in the order of their codes (R24, R96). -/
inductive GyroRange where
  | dps250
  | dps500
  | dps1000
  | dps2000
  deriving DecidableEq, Repr

/-- A command (R91). -/
inductive Instr where
  /-- SETACC, SetAccelerometerRange(range) (R122). -/
  | setacc (acc : AccelRange)
  /-- SETGYR, SetGyroscopeRange(range) (R124). -/
  | setgyr (gyr : GyroRange)
  /-- SETDIV, SetSampleRateDivider(divider) (R126). -/
  | setdiv (d : Byte)
  /-- WAKE, WakeUp() (R129). -/
  | wake
  /-- ENINT, EnableInterrupts() (R131). -/
  | enint
  /-- FIND, FindDevice(startAddr, endAddr): `first` is probed first, `last` is one past the end (R95, R160). -/
  | find (first last : Byte)
  /-- INIT, Initialize(accRange, gyroRange, sampleRateDivider) (R170). -/
  | init (acc : AccelRange) (gyr : GyroRange) (d : Byte)
  /-- READ, the read cycle (R190). -/
  | read
  deriving DecidableEq, Repr

end Sys2Proof
end

