-- ==== Sys2Proof/WellFormed.lean ====
section
/-! DEFINITION. Which command words are well formed, read from the operand table of spec/30_encoding.md
R91 with the reserved-field rules R93 and R98: an opcode fixes, for each of the operand bytes A, B and C,
whether it is a range code, any byte, or reserved zero. The decoder (Decode.lean) is written from R103
instead. -/

namespace Sys2Proof

/-- The four bytes of a command word (R90), before any meaning is given to them. -/
structure RawCommand where
  op : Byte
  a : Byte
  b : Byte
  c : Byte
  deriving DecidableEq, Repr

/-- What R91 lets an operand byte hold. -/
inductive FieldKind where
  /-- Reserved: must be zero (R98). -/
  | zero
  /-- A range code in bits 1:0, bits 7:2 zero (R93). -/
  | range
  /-- An unsigned byte, taken as it is (R94). -/
  | byte
  deriving DecidableEq, Repr

/-- The operand table of R91: the kinds of A, B and C for each opcode of R92, none for a reserved opcode. -/
def operandKinds (op : Byte) : Option (FieldKind × FieldKind × FieldKind) :=
  match op.toNat with
  | 0x01 => some (.range, .zero, .zero)
  | 0x02 => some (.range, .zero, .zero)
  | 0x03 => some (.byte, .zero, .zero)
  | 0x04 => some (.zero, .zero, .zero)
  | 0x05 => some (.zero, .zero, .zero)
  | 0x06 => some (.byte, .byte, .zero)
  | 0x07 => some (.range, .range, .byte)
  | 0x08 => some (.zero, .zero, .zero)
  | _ => none

/-- Does a byte fit a field's kind (R93, R94, R98)? -/
def FieldKind.accepts : FieldKind → Byte → Bool
  | .zero, v => v == 0
  | .range, v => v.toNat < 4
  | .byte, _ => true

/-- A raw command is well formed when its opcode is assigned and every operand byte fits its field. -/
def RawCommand.wellFormed (r : RawCommand) : Bool :=
  match operandKinds r.op with
  | none => false
  | some (ka, kb, kc) => ka.accepts r.a && kb.accepts r.b && kc.accepts r.c

end Sys2Proof
end

