-- ==== Sys2Proof/Decode.lean ====
section
/-! DEFINITION. The command word's decoder, total and rejecting by name (spec/30_encoding.md R103, R104),
the encoder written from the same field table (R91, R106), and the opcode table's match and mask pairs. -/

namespace Sys2Proof

/-- An operand field of the command word (R90). -/
inductive OperandField where
  | a
  | b
  | c
  deriving DecidableEq, Repr

/-- Why a word spells no command (R104). -/
inductive DecodeError where
  /-- The opcode is 0x00 or 0x09..0xFF (R92). -/
  | reservedOpcode (op : Byte)
  /-- A reserved field, or the reserved bits of a range field, are not zero (R93, R98): the first such field. -/
  | reservedBits (op : Byte) (field : OperandField)
  deriving DecidableEq, Repr

/-- The four byte fields of a command word (R90). -/
def RawCommand.ofWord (w : CommandWord) : RawCommand :=
  { op := w.extractLsb' 0 8, a := w.extractLsb' 8 8, b := w.extractLsb' 16 8, c := w.extractLsb' 24 8 }

/-- The command word with the given byte fields (R90). -/
def RawCommand.toWord (r : RawCommand) : CommandWord :=
  r.c ++ r.b ++ r.a ++ r.op

/-- The code of an accelerometer range (R96). -/
def AccelRange.code : AccelRange → BitVec 2
  | .g2 => 0
  | .g4 => 1
  | .g8 => 2
  | .g16 => 3

/-- The accelerometer range of a code (R96). -/
def AccelRange.ofCode (c : BitVec 2) : AccelRange :=
  match c.toNat with
  | 0 => .g2
  | 1 => .g4
  | 2 => .g8
  | _ => .g16

/-- The code of a gyroscope range (R96). -/
def GyroRange.code : GyroRange → BitVec 2
  | .dps250 => 0
  | .dps500 => 1
  | .dps1000 => 2
  | .dps2000 => 3

/-- The gyroscope range of a code (R96). -/
def GyroRange.ofCode (c : BitVec 2) : GyroRange :=
  match c.toNat with
  | 0 => .dps250
  | 1 => .dps500
  | 2 => .dps1000
  | _ => .dps2000

/-- `X = 0`, or the word is refused (R98, R103). -/
def RawCommand.zeroField (r : RawCommand) (field : OperandField) (v : Byte) : Except DecodeError Unit :=
  if v = 0 then .ok () else .error (.reservedBits r.op field)

/-- `X[7:2] = 0` and then `X[1:0]`, or the word is refused (R93, R103). -/
def RawCommand.rangeField (r : RawCommand) (field : OperandField) (v : Byte) : Except DecodeError (BitVec 2) :=
  if v.extractLsb' 2 6 = 0 then .ok (v.extractLsb' 0 2) else .error (.reservedBits r.op field)

/-- The case analysis of R103, on the four byte fields. -/
def RawCommand.decode (r : RawCommand) : Except DecodeError Instr :=
  match r.op.toNat with
  | 0x01 => do
    let acc ← r.rangeField .a r.a
    r.zeroField .b r.b
    r.zeroField .c r.c
    return .setacc (.ofCode acc)
  | 0x02 => do
    let gyr ← r.rangeField .a r.a
    r.zeroField .b r.b
    r.zeroField .c r.c
    return .setgyr (.ofCode gyr)
  | 0x03 => do
    r.zeroField .b r.b
    r.zeroField .c r.c
    return .setdiv r.a
  | 0x04 => do
    r.zeroField .a r.a
    r.zeroField .b r.b
    r.zeroField .c r.c
    return .wake
  | 0x05 => do
    r.zeroField .a r.a
    r.zeroField .b r.b
    r.zeroField .c r.c
    return .enint
  | 0x06 => do
    r.zeroField .c r.c
    return .find r.a r.b
  | 0x07 => do
    let acc ← r.rangeField .a r.a
    let gyr ← r.rangeField .b r.b
    return .init (.ofCode acc) (.ofCode gyr) r.c
  | 0x08 => do
    r.zeroField .a r.a
    r.zeroField .b r.b
    r.zeroField .c r.c
    return .read
  | _ => .error (.reservedOpcode r.op)

/-- `decode(w)` of R103: a command, or the reason the word is refused. -/
def decode (w : CommandWord) : Except DecodeError Instr :=
  (RawCommand.ofWord w).decode

/-- A range operand's byte: the code in bits 1:0, bits 7:2 zero (R93). -/
def rangeByte (code : BitVec 2) : Byte := code.zeroExtend 8

/-- The byte fields of a command, from the operand table R91 and the opcode map R92. -/
def Instr.fields : Instr → RawCommand
  | .setacc acc => { op := 0x01, a := rangeByte acc.code, b := 0, c := 0 }
  | .setgyr gyr => { op := 0x02, a := rangeByte gyr.code, b := 0, c := 0 }
  | .setdiv d => { op := 0x03, a := d, b := 0, c := 0 }
  | .wake => { op := 0x04, a := 0, b := 0, c := 0 }
  | .enint => { op := 0x05, a := 0, b := 0, c := 0 }
  | .find first last => { op := 0x06, a := first, b := last, c := 0 }
  | .init acc gyr d => { op := 0x07, a := rangeByte acc.code, b := rangeByte gyr.code, c := d }
  | .read => { op := 0x08, a := 0, b := 0, c := 0 }

/-- The command word of a command (R90, R91, R92). -/
def encode (i : Instr) : CommandWord := i.fields.toWord

/-- The well-formedness check on a command word (R91, R93, R98). -/
def wordWellFormed (w : CommandWord) : Bool := (RawCommand.ofWord w).wellFormed

/-- The well-formedness check on a command: its byte fields fit the operand table. -/
def Instr.wellFormed (i : Instr) : Bool := i.fields.wellFormed

/-- The match and mask of a command's row of spec/opcode_table.json (R103): a word selects the row when
the word masked by the second equals the first. -/
def Instr.matchMask : Instr → CommandWord × CommandWord
  | .setacc _ => (0x00000001, 0xFFFFFCFF)
  | .setgyr _ => (0x00000002, 0xFFFFFCFF)
  | .setdiv _ => (0x00000003, 0xFFFF00FF)
  | .wake => (0x00000004, 0xFFFFFFFF)
  | .enint => (0x00000005, 0xFFFFFFFF)
  | .find _ _ => (0x00000006, 0xFF0000FF)
  | .init _ _ _ => (0x00000007, 0x00FCFCFF)
  | .read => (0x00000008, 0xFFFFFFFF)

/-- The host's question: what the decoder reads from a word of the opcode table's numbering. A command
word has 32 bits, so a longer one is none. -/
def decodeTableWord (nbits w : Nat) : Option Instr :=
  if nbits ≤ 32 then
    match decode (BitVec.ofNat 32 (w % 2 ^ nbits)) with
    | .ok i => some i
    | .error _ => none
  else none

end Sys2Proof
end

