-- ==== Sys2Proof/Machine/State.lean ====
section
/-! DEFINITION. The machine's state as plain data (spec/10_state.md R21 to R32), the ports around the block
(R34 to R36), the reasons a step can stop, and the power-on state (R42). -/

namespace Sys2Proof.Machine

/-- DeviceConfig (R22 to R25). -/
structure DeviceConfig where
  /-- `cfg.address`; 0 means "unset" (R22). -/
  address : Byte
  accelRange : AccelRange
  gyroRange : GyroRange
  divider : Byte
  deriving DecidableEq, Repr

/-- A file of seven entries in the burst order of R13: accel-x, accel-y, accel-z, temperature, gyro-x,
gyro-y, gyro-z. -/
structure Seven (α : Type) where
  accelX : α
  accelY : α
  accelZ : α
  temperature : α
  gyroX : α
  gyroY : α
  gyroZ : α
  deriving DecidableEq, Repr

/-- A file with the same value in every entry. -/
def Seven.replicate {α : Type} (x : α) : Seven α := ⟨x, x, x, x, x, x, x⟩

/-- ErrorState: the most recent condition only (R30, R31). -/
structure ErrorState where
  kind : ErrorKind
  msg : String
  deriving DecidableEq, Repr

/-- `seq.locals` (R32). -/
structure Locals where
  /-- FIND's scan address `a`. -/
  scanAddress : Byte
  /-- FIND's end flag: the scan list is used up. -/
  scanEnded : Bool
  /-- The byte `v` that ENINT read from register 0x37. -/
  v : Byte
  /-- The bytes `b` that READ received. -/
  b : List Byte
  /-- The model's own mark inside a MemRead, which is two transactions (R69) and so two steps (R33): its
  pointer write has answered Ok. -/
  pointerSet : Bool
  deriving DecidableEq, Repr

/-- `∅` of R34: no temporaries yet. -/
def Locals.empty : Locals :=
  { scanAddress := 0, scanEnded := false, v := 0, b := [], pointerSet := false }

/-- Where the running command stands (R32). `step` is the step index in the pseudocode of the command's
rule; INIT runs other commands' bodies (R170, R172), so for INIT `initStep` is its own step index and
`step` that of the body it runs. Outside INIT `initStep` is 0. -/
structure Position where
  initStep : Nat
  step : Nat
  deriving DecidableEq, Repr

/-- `seq` (R32). -/
inductive Sequencer where
  | idle
  | run (cmd : Instr) (pos : Position) (locals : Locals)
  deriving DecidableEq, Repr

/-- The operation of a transport request (R70). -/
inductive BusOp where
  | write
  | read
  | probe
  deriving DecidableEq, Repr

/-- A request on the transaction port: `{op, dev, data, len, timeout}` (R70). `data` is empty except for a
Write and `len` is 0 except for a Read. -/
structure Request where
  op : BusOp
  dev : Byte
  data : List Byte
  len : Nat
  timeout : Nat
  deriving DecidableEq, Repr

/-- What the transport answers one request with (R71): a status and, for an `Ok` read, bytes. A read of
`n` bytes takes the first `n`; a byte the list does not give is a free value (Ops.lean). -/
structure Draw where
  status : Status
  bytes : List Byte
  deriving DecidableEq, Repr

/-- The state. The first five fields are the whole of the block's state (R21). `params` is the choice of
the two-valued parameters (R8, R9), which no command writes. The last five are the model's own record of
the other two agents (R20): what the host will present and has been told, and what the transport will
answer and has been asked. -/
structure State where
  cfg : DeviceConfig
  /-- `raw[0..6]` (R27). -/
  raw : Seven Word
  /-- `cal[0..6]`, as binary32 patterns (R29). -/
  cal : Seven Float32Bits
  err : ErrorState
  seq : Sequencer
  params : Params
  /-- Command port (R34): the words the host will present, the next one first. -/
  commands : List CommandWord
  /-- Result port (R35): the results reported so far, the oldest first. -/
  results : List ErrorKind
  /-- Transaction port (R72): the transport's answers to come, the next one first. -/
  answers : List Draw
  /-- How many transactions have been answered: the index of the free values (R72). -/
  drawn : Nat
  /-- Transaction port (R36, R70): the requests issued so far, the oldest first. -/
  requests : List Request
  deriving DecidableEq, Repr

/-- The reasons the machine can stop with a fault. -/
inductive Fault where
  /-- Raised by `step` alone, and only in a state that no run reaches: the sequencer stands at a step that
  its command's pseudocode does not have, so the spec gives no next step (spec/93_implementation_defined.md
  names such codes `stuck`). Safe: the spec says nothing of such a state. -/
  | sequencerStuck
  deriving DecidableEq, Repr

/-- The reasons the machine can refuse. -/
inductive Refusal where
  /-- An instruction with no meaning yet, by its mnemonic. No arm of exec raises it. Safe. -/
  | notModelled (mnemonic : String)
  /-- Raised by `step` for a command word that decodes to Refused: the model's refusal mark (R104). Safe. -/
  | wordRefused (why : DecodeError)
  /-- Raised by every meaning when the sequencer is not Idle: the host has no such move (R34, R297). `step`
  never calls a meaning there. Safe. -/
  | commandWhileBusy
  deriving DecidableEq, Repr

/-- The power-on state (R42, R290). No command is waiting and no answer is listed, so every answer is a
free value; the parameters have their defaults (R8, R9). -/
def State.reset : State :=
  { cfg := { address := 0, accelRange := .g2, gyroRange := .dps250, divider := 0 }
    raw := Seven.replicate 0
    cal := Seven.replicate 0
    err := { kind := .noError, msg := Config.errMsg .noError }
    seq := .idle
    params := Params.default
    commands := []
    results := []
    answers := []
    drawn := 0
    requests := [] }

end Sys2Proof.Machine
end

