-- ==== Sys2Proof/Machine/Operands.lean ====
section
/-! DEFINITION. Operand and register values: the sensor's register addresses (spec/20_memory.md R61, R67),
the register bytes the encoder writes (spec/30_encoding.md R99 to R101), the scan list (spec/41_discovery_init.md
R161), byte order and sign (spec/00_scope.md R14), and the files' index order (R13). -/

namespace Sys2Proof.Machine

/-- Register 0x6B, labelled "Power Management 2" by the source (R61, R62). -/
def regPower : Byte := 0x6B

/-- Register 0x19, Sample Rate Divider (R61, R63). -/
def regDivider : Byte := 0x19

/-- Register 0x1B, Gyro Range Config (R61, R64). -/
def regGyroConfig : Byte := 0x1B

/-- Register 0x1C, Accel Range Config (R61, R64). -/
def regAccelConfig : Byte := 0x1C

/-- Register 0x38, Interrupt Enable (R61, R65). -/
def regIntEnable : Byte := 0x38

/-- Register 0x37, Interrupt Config (R61, R66). -/
def regIntConfig : Byte := 0x37

/-- Register 0x3B, Accel X High: the start of the burst (R61, R67). -/
def regBurst : Byte := 0x3B

/-- The burst's length in bytes (R67, R101). -/
def burstLength : Nat := 14

/-- The sensor register that burst offset `j` holds (R67). -/
def burstRegister (j : Nat) : Byte := regBurst + BitVec.ofNat 8 j

/-- The byte WAKE writes (R62, R101). -/
def wakeValue : Byte := 0x00

/-- The byte ENINT writes to 0x38 (R65, R101). -/
def intEnableValue : Byte := 0x01

/-- The mask ENINT ORs into 0x37 (R66, R101). -/
def intLatchMask : Byte := 0x10

/-- `enc_range(code) = code << 3` as a byte (R99). -/
def encRange (code : BitVec 2) : Byte := code.zeroExtend 8 <<< 3

/-- `enc_div(d) = d` (R100). -/
def encDiv (d : Byte) : Byte := d

/-- The sensor's effective sample rate for a divider, `GYRO_OUTPUT_RATE / (1 + d)`: a fact about the
sensor from which the block computes nothing (R127). -/
def effectiveSampleRate (d : Byte) : Rat := Config.gyroOutputRate / (1 + d.toNat)

/-- The span a scan covers, first address and one past the last (R161): `Bounded` takes FIND's bounds
without address 0, `FullScan` is 1..254 whatever they are. -/
def scanBounds (mode : ScanMode) (first last : Byte) : Nat × Nat :=
  match mode with
  | .bounded => (max first.toNat 1, last.toNat)
  | .fullScan => (1, 255)

/-- The addresses from `lo` up to but not including `hi`, ascending (R161). -/
def addressSpan (lo hi : Nat) : List Byte := (List.range' lo (hi - lo)).map (BitVec.ofNat 8)

/-- `scan_list(mode, start, end)` (R161). -/
def scanList (mode : ScanMode) (first last : Byte) : List Byte :=
  addressSpan (scanBounds mode first last).1 (scanBounds mode first last).2

/-- The scan list of INIT's step 2 (R174). -/
def initScanList : List Byte := addressSpan Config.initScanLo Config.initScanHi

/-- `be16(hi, lo)`: the word with `hi` in bits 15:8 (R14, R74). -/
def be16 (hi lo : Byte) : Word := hi ++ lo

/-- `zext_16(w)` (R14). -/
def zext16 (w : Word) : Int := w.toNat

/-- `sext_16(w)` (R14). -/
def sext16 (w : Word) : Int := w.toInt

/-- `rawval(w)` (R28). -/
def rawval (mode : RawSignedness) (w : Word) : Int :=
  match mode with
  | .signed => sext16 w
  | .referenceUnsigned => zext16 w

/-- Entry `k` of a file, in the index order of R13. -/
def Seven.get {α : Type} (x : Seven α) (k : Fin 7) : α :=
  match k with
  | 0 => x.accelX
  | 1 => x.accelY
  | 2 => x.accelZ
  | 3 => x.temperature
  | 4 => x.gyroX
  | 5 => x.gyroY
  | 6 => x.gyroZ

/-- The file whose entry `k` is `f k`, in the index order of R13. -/
def Seven.ofFn {α : Type} (f : Fin 7 → α) : Seven α := ⟨f 0, f 1, f 2, f 3, f 4, f 5, f 6⟩

/-- The seven words of a burst: entry `k` is `be16(b[2k], b[2k+1])` (R190, R191). An `Ok` read of 14 bytes
gives every one of them (R71(b)). -/
def burstWords (b : List Byte) : Seven Word :=
  Seven.ofFn fun k => be16 (b.getD (2 * k) 0) (b.getD (2 * k + 1) 0)

end Sys2Proof.Machine
end

