-- ==== Sys2Proof/Machine/Calibration.lean ====
section
/-! DEFINITION. The calibration engine, a pure function (spec/43_calibration.md R210 to R222), and
the default `TO_FLOAT`: IEEE 754 binary32, round to nearest, ties to even, one rounding from the exact
rational (spec/00_scope.md R10, R218). -/

namespace Sys2Proof.Machine

/-! ### TO_FLOAT -/

/-- `n / d` rounded to the nearest natural number, ties to even. -/
def roundHalfEven (n d : Nat) : Nat :=
  if d < 2 * (n % d) ∨ (2 * (n % d) = d ∧ n / d % 2 = 1) then n / d + 1 else n / d

/-- The exponent `e` with `2^e ≤ n / d < 2^(e+1)`, for `n` and `d` not 0. -/
def binaryExponent (n d : Nat) : Int :=
  let e : Int := (n.log2 : Int) - d.log2
  if d * 2 ^ e.toNat ≤ n * 2 ^ (-e).toNat then e else e - 1

/-- The unit in the last place for a magnitude `n / d` is `2` to this power: 23 below its exponent, and not
below the subnormals' -149. -/
def unitExponent (n d : Nat) : Int := max (binaryExponent n d) (-126) - 23

/-- The pattern of the magnitude `n / d`: the exponent field's part, plus the rounded significand whose
leading bit, or whose carry out of the top, counts into the exponent field; past the largest finite value,
infinity. -/
def magnitudeBits (n d : Nat) : Nat :=
  if n = 0 then 0
  else
    let u := unitExponent n d
    min ((u + 149).toNat * 2 ^ 23 + roundHalfEven (n * 2 ^ (-u).toNat) (d * 2 ^ u.toNat)) (255 * 2 ^ 23)

/-- The default `TO_FLOAT` (R10, R218): sign bit and magnitude; zero gives +0.0. -/
def toFloat (q : Rat) : Float32Bits :=
  BitVec.ofNat 32 ((if q < 0 then 2 ^ 31 else 0) + magnitudeBits q.num.natAbs q.den)

/-! ### Scale tables and formulas -/

/-- `ACCEL_LSB`, LSB per g, exact (R211). -/
def accelLsb : AccelRange → Rat
  | .g2 => 16384
  | .g4 => 8192
  | .g8 => 4096
  | .g16 => 2048

/-- `GYRO_LSB`, LSB per °/s, exact decimals (R212). -/
def gyroLsb : GyroRange → Rat
  | .dps250 => 131
  | .dps500 => 131 / 2
  | .dps1000 => 164 / 5
  | .dps2000 => 82 / 5

/-- `TEMP(t)`, exact: the datasheet's formula (R216) or the reference's (R217). -/
def temperature (formula : TempFormula) (t : Int) : Rat :=
  match formula with
  | .datasheet => t / 340 + 3653 / 100
  | .reference => -(t / 340) + 3653 / 100

/-- An accelerometer element before rounding, in g (R214). -/
def accelExact (mode : RawSignedness) (acc : AccelRange) (w : Word) : Rat := rawval mode w / accelLsb acc

/-- A gyroscope element before rounding, in °/s (R215). -/
def gyroExact (mode : RawSignedness) (gyr : GyroRange) (w : Word) : Rat := rawval mode w / gyroLsb gyr

/-- The temperature element before rounding, in °C (R216, R217). -/
def temperatureExact (p : Params) (w : Word) : Rat := temperature p.tempFormula (rawval p.rawSignedness w)

/-- `Calibrate` with `TO_FLOAT` as an argument (R210, R218). -/
def calibrateWith (toF : Rat → Float32Bits) (p : Params) (r : Seven Word) (acc : AccelRange) (gyr : GyroRange) :
    Seven Float32Bits :=
  { accelX := toF (accelExact p.rawSignedness acc r.accelX)
    accelY := toF (accelExact p.rawSignedness acc r.accelY)
    accelZ := toF (accelExact p.rawSignedness acc r.accelZ)
    temperature := toF (temperatureExact p r.temperature)
    gyroX := toF (gyroExact p.rawSignedness gyr r.gyroX)
    gyroY := toF (gyroExact p.rawSignedness gyr r.gyroY)
    gyroZ := toF (gyroExact p.rawSignedness gyr r.gyroZ) }

/-- `Calibrate` as the machine runs it, with the default `TO_FLOAT` (R210). -/
def calibrate (p : Params) (r : Seven Word) (acc : AccelRange) (gyr : GyroRange) : Seven Float32Bits :=
  calibrateWith toFloat p r acc gyr

end Sys2Proof.Machine
end

