-- ==== Sys2Proof/Machine/Flags.lean ====
section
/-! DEFINITION. The error kinds, which are the block's only condition flags (spec/10_state.md R40): their
codes (spec/60_exceptions.md R250) and the kind of a transport status (spec/00_scope.md R17). -/

namespace Sys2Proof.Machine

/-- The 3-bit code `err.kind` holds (R250). -/
def errorCode : ErrorKind → BitVec 3
  | .noError => 0
  | .notConfigured => 1
  | .deviceNotFound => 2
  | .timeout => 3
  | .busy => 4
  | .transportError => 5

/-- `fail_kind(s)` (R17), none for `Ok`, to which it is never applied. -/
def failKind : Status → Option ErrorKind
  | .ok => none
  | .timeout => some .timeout
  | .busy => some .busy
  | .error => some .transportError

end Sys2Proof.Machine
end

