-- ==== Sys2Proof/Machine/Ops.lean ====
section
/-! DEFINITION. The shared operations every command is built from: the writes to the block's registers, the
sequencer's moves (spec/10_state.md R32), the end of a command by success or by an error (spec/00_scope.md
R16, spec/60_exceptions.md R256), the transactions (spec/20_memory.md R68 to R72), and running a command's
steps until the block is Idle (R33, R34). -/

namespace Sys2Proof.Machine

/-! ### Register writes -/

/-- `cfg.address <- a` (R22). -/
def State.setAddress (a : Byte) (s : State) : State := { s with cfg := { s.cfg with address := a } }

/-- `cfg.accelRange <- r` (R23). -/
def State.setAccelRange (r : AccelRange) (s : State) : State := { s with cfg := { s.cfg with accelRange := r } }

/-- `cfg.gyroRange <- r` (R24). -/
def State.setGyroRange (r : GyroRange) (s : State) : State := { s with cfg := { s.cfg with gyroRange := r } }

/-- `cfg.divider <- d` (R25). -/
def State.setDivider (d : Byte) (s : State) : State := { s with cfg := { s.cfg with divider := d } }

/-- All seven `raw` words and all seven `cal` values, written together (R27, R29). -/
def State.setSamples (raw : Seven Word) (cal : Seven Float32Bits) (s : State) : State :=
  { s with raw := raw, cal := cal }

/-- `err.kind <- k; err.msg <- ERR_MSG(k)`: the two are always written together (R30, R31). -/
def State.recordError (k : ErrorKind) (s : State) : State :=
  { s with err := { kind := k, msg := Config.errMsg k } }

/-! ### The sequencer -/

/-- Is the sequencer Idle? -/
def Sequencer.isIdle : Sequencer → Bool
  | .idle => true
  | .run _ _ _ => false

/-- The step of the body being run (R32). -/
def Sequencer.step : Sequencer → Nat
  | .idle => 0
  | .run _ p _ => p.step

/-- INIT's own step (R170), 0 outside INIT. -/
def Sequencer.initStep : Sequencer → Nat
  | .idle => 0
  | .run _ p _ => p.initStep

/-- The temporaries of the running command (R32). -/
def Sequencer.locals : Sequencer → Locals
  | .idle => Locals.empty
  | .run _ _ l => l

/-- `seq <- Run(cmd, 0, ∅)` (R34). -/
def State.start (i : Instr) (s : State) : State :=
  { s with seq := .run i { initStep := 0, step := 0 } Locals.empty }

/-- `pc <- k`, in the body being run (R16, R32). -/
def State.goto (k : Nat) (s : State) : State :=
  match s.seq with
  | .idle => s
  | .run i p l => { s with seq := .run i { p with step := k } l }

/-- INIT moves to its step `k`, at the start of that step's body, with no temporaries (R170, R172). -/
def State.gotoInit (k : Nat) (s : State) : State :=
  match s.seq with
  | .idle => s
  | .run i _ _ => { s with seq := .run i { initStep := k, step := 0 } Locals.empty }

/-- A change to the running command's temporaries (R32). -/
def State.mapLocals (f : Locals → Locals) (s : State) : State :=
  match s.seq with
  | .idle => s
  | .run i p l => { s with seq := .run i p (f l) }

/-! ### The end of a command -/

/-- The command ends with result `k`: `err` is written, `k` is reported on the result port and the block is
Idle again, its temporaries discarded (R16, R35, R256). -/
def State.endCommand (k : ErrorKind) (s : State) : State :=
  { s.recordError k with results := s.results ++ [k], seq := .idle }

/-- `raise K()`: taking an error (R16, R256). It ends the command, and INIT with it when a sub-operation
raises (R172). There is no handler and no return from one (R260). -/
def State.raise (k : ErrorKind) (s : State) : State := s.endCommand k

/-- `succeed()` (R16). At the end of one of INIT's sub-operations (its steps 2 to 7) it records NoError and
INIT goes on with its next step; nothing is reported (R172). -/
def State.succeed (s : State) : State :=
  if 2 ≤ s.seq.initStep ∧ s.seq.initStep ≤ 7 then
    (s.recordError .noError).gotoInit (s.seq.initStep + 1)
  else s.endCommand .noError

/-! ### Transactions -/

/-- The answer the transport gives the next transaction (R71, R72): the next one listed, else free values. -/
def State.draw (s : State) : Draw :=
  match s.answers with
  | d :: _ => d
  | [] => { status := Config.freeStatus s.drawn, bytes := [] }

/-- The bytes an `Ok` read of `n` bytes carries: exactly `n` of them (R71(b)), each free where the answer
does not give it. -/
def State.drawBytes (n : Nat) (s : State) : List Byte :=
  (List.range n).map fun j => s.draw.bytes.getD j (Config.freeByte s.drawn j)

/-- The request is issued and its answer consumed (R33, R70). -/
def State.issue (r : Request) (s : State) : State :=
  { s with requests := s.requests ++ [r], answers := s.answers.tail, drawn := s.drawn + 1 }

/-- The request of `BusWrite(dev, bytes)` (R15, R70). -/
def writeRequest (dev : Byte) (data : List Byte) : Request :=
  { op := .write, dev := dev, data := data, len := 0, timeout := Config.timeout }

/-- The request of `BusRead(dev, n)` (R15, R70). -/
def readRequest (dev : Byte) (n : Nat) : Request :=
  { op := .read, dev := dev, data := [], len := n, timeout := Config.timeout }

/-- The request of `BusProbe(dev)` (R15, R70). -/
def probeRequest (dev : Byte) : Request :=
  { op := .probe, dev := dev, data := [], len := 0, timeout := Config.timeout }

/-- `s ≠ Ok → raise fail_kind(s)`, else go on (R121, R254). -/
def State.unlessFailed (status : Status) (go : State → State) (s : State) : State :=
  match failKind status with
  | some k => s.raise k
  | none => go s

/-- A step that is one `MemWrite(reg, 1, v)`, the transaction `BusWrite(cfg.address, [reg, v])` (R68); on
`Ok` the command goes to step `next`. -/
def State.memWriteStep (reg v : Byte) (next : Nat) (s : State) : State :=
  (s.issue (writeRequest s.cfg.address [reg, v])).unlessFailed s.draw.status (State.goto next)

/-- A step that is a `MemRead(reg, n)` (R69): first `BusWrite(cfg.address, [reg])`, and on its `Ok`, as the
next transaction, `BusRead(cfg.address, n)`, whose bytes `go` receives on `Ok`. -/
def State.memReadStep (reg : Byte) (n : Nat) (go : List Byte → State → State) (s : State) : State :=
  if s.seq.locals.pointerSet then
    ((s.issue (readRequest s.cfg.address n)).mapLocals fun l => { l with pointerSet := false }).unlessFailed
      s.draw.status (go (s.drawBytes n))
  else
    (s.issue (writeRequest s.cfg.address [reg])).unlessFailed s.draw.status
      (State.mapLocals fun l => { l with pointerSet := true })

/-- Step 0 of every register command: `if cfg.address = 0 then raise NotConfigured()` (R120, R252). -/
def State.requireAddress (s : State) : State :=
  if s.cfg.address = 0 then s.raise .notConfigured else s.goto 1

/-! ### Running a command -/

/-- At least as many steps as any command takes: INIT's worst case is 276 (R303, Laws/Sequencer.lean). -/
def stepBound : Nat := 300

/-- Take steps until the block is Idle, `fuel` of them at the most. -/
def untilIdle : Nat → (State → State) → State → State
  | 0, _, s => s
  | fuel + 1, f, s => if s.seq.isIdle then s else untilIdle fuel f (f s)

/-- Run command `i`, whose steps `f` takes, from its acceptance to its end (R34). A word may be presented
only to an Idle block (R34, R297); there is no move otherwise. -/
def runCommand (i : Instr) (f : State → State) (s : State) : Host.Outcome State Fault Refusal :=
  match s.seq with
  | .idle => .next (untilIdle stepBound f (s.start i))
  | .run _ _ _ => .refused .commandWhileBusy

end Sys2Proof.Machine
end

