-- ==== Sys2Proof/Machine/Acquisition.lean ====
section
/-! DEFINITION. Raw acquisition: READ (spec/42_acquisition.md). -/

namespace Sys2Proof.Machine

/-- Step 2 of READ: the burst's words become `raw` and `cal` is calibrated from them with the ranges held
now, all together (R190, R193). -/
def State.storeBurst (s : State) : State :=
  let w := burstWords s.seq.locals.b
  s.setSamples w (calibrate s.params w s.cfg.accelRange s.cfg.gyroRange)

/-- The steps of READ (R190). -/
def readStep (s : State) : State :=
  match s.seq.step with
  | 0 => s.requireAddress
  | 1 => s.memReadStep regBurst burstLength fun b t => (t.mapLocals fun l => { l with b := b }).goto 2
  | 2 => s.storeBurst.succeed
  | _ => s

/-- READ (R190). -/
def execRead (s : State) : Host.Outcome State Fault Refusal :=
  runCommand .read readStep s

end Sys2Proof.Machine
end

