-- ==== Sys2Proof/Machine/Encoder.lean ====
section
/-! DEFINITION. The register-setting commands SETACC, SETGYR, SETDIV, WAKE and ENINT
(spec/40_config_encoder.md). Each command's step function is its rule's pseudocode, one arm a step; a step
index the pseudocode does not have is no step. -/

namespace Sys2Proof.Machine

/-- The steps of SETACC (R122). -/
def setaccStep (acc : AccelRange) (s : State) : State :=
  match s.seq.step with
  | 0 => s.requireAddress
  | 1 => s.memWriteStep regAccelConfig (encRange acc.code) 2
  | 2 => (s.setAccelRange acc).succeed
  | _ => s

/-- The steps of SETGYR (R124). -/
def setgyrStep (gyr : GyroRange) (s : State) : State :=
  match s.seq.step with
  | 0 => s.requireAddress
  | 1 => s.memWriteStep regGyroConfig (encRange gyr.code) 2
  | 2 => (s.setGyroRange gyr).succeed
  | _ => s

/-- The steps of SETDIV (R126). -/
def setdivStep (d : Byte) (s : State) : State :=
  match s.seq.step with
  | 0 => s.requireAddress
  | 1 => s.memWriteStep regDivider (encDiv d) 2
  | 2 => (s.setDivider d).succeed
  | _ => s

/-- The steps of WAKE (R129). -/
def wakeStep (s : State) : State :=
  match s.seq.step with
  | 0 => s.requireAddress
  | 1 => s.memWriteStep regPower wakeValue 2
  | 2 => s.succeed
  | _ => s

/-- The steps of ENINT (R131). Its last transaction is a write (R133). -/
def enintStep (s : State) : State :=
  match s.seq.step with
  | 0 => s.requireAddress
  | 1 => s.memWriteStep regIntEnable intEnableValue 2
  | 2 => s.memReadStep regIntConfig 1 fun b t => (t.mapLocals fun l => { l with v := b.getD 0 0 }).goto 3
  | 3 => s.memWriteStep regIntConfig (s.seq.locals.v ||| intLatchMask) 4
  | 4 => s.succeed
  | _ => s

/-- SETACC (R122). -/
def execSetacc (acc : AccelRange) (s : State) : Host.Outcome State Fault Refusal :=
  runCommand (.setacc acc) (setaccStep acc) s

/-- SETGYR (R124). -/
def execSetgyr (gyr : GyroRange) (s : State) : Host.Outcome State Fault Refusal :=
  runCommand (.setgyr gyr) (setgyrStep gyr) s

/-- SETDIV (R126). -/
def execSetdiv (d : Byte) (s : State) : Host.Outcome State Fault Refusal :=
  runCommand (.setdiv d) (setdivStep d) s

/-- WAKE (R129). -/
def execWake (s : State) : Host.Outcome State Fault Refusal :=
  runCommand .wake wakeStep s

/-- ENINT (R131). -/
def execEnint (s : State) : Host.Outcome State Fault Refusal :=
  runCommand .enint enintStep s

end Sys2Proof.Machine
end

