-- ==== Sys2Proof/Machine/Discovery.lean ====
section
/-! DEFINITION. Device discovery and initialisation: FIND and INIT (spec/41_discovery_init.md). -/

namespace Sys2Proof.Machine

/-- After a probe of the scan address that was not acknowledged: the next address of the span that ends
before `hi`, or the end flag (R160, R161). -/
def Locals.nextAddress (hi : Nat) (l : Locals) : Locals :=
  if l.scanAddress.toNat + 1 < hi then { l with scanAddress := l.scanAddress + 1 }
  else { l with scanEnded := true }

/-- The steps of a scan of the addresses from `lo` up to but not including `hi`, ascending: FIND's steps
(R160), and INIT's step 2 with its own span (R174). A probe is acknowledged exactly when its status is `Ok`
(R71(c)); any other answer is no error and the scan goes on. -/
def scanStep (lo hi : Nat) (s : State) : State :=
  match s.seq.step with
  | 0 => (s.mapLocals fun l => { l with scanAddress := BitVec.ofNat 8 lo, scanEnded := decide (hi ≤ lo) }).goto 1
  | 1 =>
    if s.seq.locals.scanEnded then s.goto 2
    else
      let t := s.issue (probeRequest s.seq.locals.scanAddress)
      if s.draw.status = .ok then (t.setAddress s.seq.locals.scanAddress).succeed
      else t.mapLocals (Locals.nextAddress hi)
  | 2 => s.raise .deviceNotFound
  | _ => s

/-- The steps of FIND (R160). -/
def findStep (first last : Byte) (s : State) : State :=
  let span := scanBounds s.params.scanMode first last
  scanStep span.1 span.2 s

/-- Step 1 of INIT: `raw`, `cal` and `err` cleared, `cfg` kept (R171). -/
def State.clearSamples (s : State) : State :=
  (s.setSamples (Seven.replicate 0) (Seven.replicate 0)).recordError .noError

/-- The steps of INIT (R170). Its pseudocode begins at step 1, so step 0, at which every command starts
(R34), does nothing but move there. -/
def initStep (acc : AccelRange) (gyr : GyroRange) (d : Byte) (s : State) : State :=
  match s.seq.initStep with
  | 0 => s.gotoInit 1
  | 1 => s.clearSamples.gotoInit 2
  | 2 => scanStep Config.initScanLo Config.initScanHi s
  | 3 => wakeStep s
  | 4 => setaccStep acc s
  | 5 => setgyrStep gyr s
  | 6 => setdivStep d s
  | 7 => enintStep s
  | 8 => s.succeed
  | _ => s

/-- FIND (R160). -/
def execFind (first last : Byte) (s : State) : Host.Outcome State Fault Refusal :=
  runCommand (.find first last) (findStep first last) s

/-- INIT (R170). -/
def execInit (acc : AccelRange) (gyr : GyroRange) (d : Byte) (s : State) : Host.Outcome State Fault Refusal :=
  runCommand (.init acc gyr d) (initStep acc gyr d) s

end Sys2Proof.Machine
end

