-- ==== Sys2Proof/Machine/Sequencer.lean ====
section
/-! DEFINITION. One step of the block at the granularity of spec/10_state.md R33, whatever command runs,
and carrying a running command on to its end. -/

namespace Sys2Proof.Machine

/-- The step function of a command: the same function its meaning repeats. -/
def commandStep : Instr → State → State
  | .setacc acc => setaccStep acc
  | .setgyr gyr => setgyrStep gyr
  | .setdiv d => setdivStep d
  | .wake => wakeStep
  | .enint => enintStep
  | .find first last => findStep first last
  | .init acc gyr d => initStep acc gyr d
  | .read => readStep

/-- One step of the block (R33): internal work with no transaction, or exactly one transaction. An Idle
block takes none (R20). -/
def blockStep (s : State) : State :=
  match s.seq with
  | .idle => s
  | .run i _ _ => commandStep i s

/-- Carry the running command `i` on until the block is Idle. -/
def resume (i : Instr) (s : State) : Host.Outcome State Fault Refusal :=
  let t := untilIdle stepBound (commandStep i) s
  if t.seq.isIdle then .next t else .fault .sequencerStuck

end Sys2Proof.Machine
end

