-- ==== Sys2Proof/Machine/Dispatch.lean ====
section
/-! DEFINITION. The meaning of each command: one arm per constructor of Instr. -/

namespace Sys2Proof.Machine

def exec (i : Instr) (s : State) : Host.Outcome State Fault Refusal :=
  match i with
  | .setacc acc => Sys2Proof.Machine.execSetacc acc s
  | .setgyr gyr => Sys2Proof.Machine.execSetgyr gyr s
  | .setdiv d => Sys2Proof.Machine.execSetdiv d s
  | .wake => Sys2Proof.Machine.execWake s
  | .enint => Sys2Proof.Machine.execEnint s
  | .find first last => Sys2Proof.Machine.execFind first last s
  | .init acc gyr d => Sys2Proof.Machine.execInit acc gyr d s
  | .read => Sys2Proof.Machine.execRead s

end Sys2Proof.Machine
end

