-- ==== Sys2Proof/Machine/Step.lean ====
section
/-! DEFINITION. One step of the machine: the block goes from Idle to Idle (spec/10_state.md R34). -/

namespace Sys2Proof.Machine

/-- One step. An Idle block accepts the word the host presents next, decodes it and runs its command to the
end, each of its steps a step of R33; a word that decodes to Refused is refused (R34, R104). With no word
presented the block waits (R20, R291). A block that is already running a command carries it on to its end. -/
def step (s : State) : Host.Outcome State Fault Refusal :=
  match s.seq with
  | .run i _ _ => resume i s
  | .idle =>
    match s.commands with
    | [] => .next s
    | w :: rest =>
      match decode w with
      | .ok i => exec i { s with commands := rest }
      | .error why => .refused (.wordRefused why)

/-- The state in which the host presents this word next: it heads the command port's queue, and the block
is Idle, as it must be to accept a word (R34). -/
def State.withFetchWord (s : State) (nbits w : Nat) : State :=
  { s with seq := .idle, commands := BitVec.ofNat 32 (w % 2 ^ nbits) :: s.commands }

end Sys2Proof.Machine
end

