-- ==== Sys2Proof/Machine/Assembler.lean ====
section
/-! DEFINITION. The assembler syntax of spec/30_encoding.md R106: one command a line,
`mnemonic [operand {, operand}]`. Notation only: no step of the machine uses it. -/

namespace Sys2Proof.Machine

/-- The parts of a list between the occurrences of a separator. -/
def splitAt (sep : Char) : List Char → List (List Char)
  | [] => [[]]
  | c :: cs =>
    match splitAt sep cs with
    | [] => [[c]]
    | part :: parts => if c = sep then [] :: part :: parts else (c :: part) :: parts

/-- The list without the spaces and tabs at its ends. -/
def trimBlanks (cs : List Char) : List Char :=
  let blank := fun c : Char => c == ' ' || c == '\t'
  ((cs.dropWhile blank).reverse.dropWhile blank).reverse

/-- The value of a digit in base 10 or 16. -/
def digitValue (base : Nat) (c : Char) : Option Nat :=
  let n := c.toNat
  let v :=
    if 48 ≤ n ∧ n ≤ 57 then some (n - 48)
    else if 97 ≤ n ∧ n ≤ 102 then some (n - 87)
    else if 65 ≤ n ∧ n ≤ 70 then some (n - 55)
    else none
  v.filter fun d => d < base

/-- The value of a nonempty list of digits. -/
def numberValue (base : Nat) (cs : List Char) : Option Nat :=
  if cs.isEmpty then none
  else cs.foldl (fun acc c => acc.bind fun n => (digitValue base c).map fun d => n * base + d) (some 0)

/-- A byte operand: a decimal or `0x`-hex value 0..255. -/
def parseByte (cs : List Char) : Option Byte :=
  let n :=
    match cs with
    | '0' :: 'x' :: rest => numberValue 16 rest
    | _ => numberValue 10 cs
  (n.filter fun v => v ≤ 255).map (BitVec.ofNat 8)

/-- A range code `0`..`3`. -/
def parseCode (cs : List Char) : Option (BitVec 2) :=
  match cs with
  | ['0'] => some 0
  | ['1'] => some 1
  | ['2'] => some 2
  | ['3'] => some 3
  | _ => none

/-- An accelerometer range operand: a name or a code. -/
def parseAccel (cs : List Char) : Option AccelRange :=
  if cs = "2g".toList then some .g2
  else if cs = "4g".toList then some .g4
  else if cs = "8g".toList then some .g8
  else if cs = "16g".toList then some .g16
  else (parseCode cs).map .ofCode

/-- A gyroscope range operand: a name or a code. -/
def parseGyro (cs : List Char) : Option GyroRange :=
  if cs = "250dps".toList then some .dps250
  else if cs = "500dps".toList then some .dps500
  else if cs = "1000dps".toList then some .dps1000
  else if cs = "2000dps".toList then some .dps2000
  else (parseCode cs).map .ofCode

/-- Is this the mnemonic, written in lower or in upper case? -/
def isMnemonic (name : String) (cs : List Char) : Bool :=
  cs == name.toList || cs == name.toList.map Char.toUpper

/-- A command from its mnemonic and its operands. -/
def parseCommand (mnemonic : List Char) (operands : List (List Char)) : Option Instr :=
  match operands with
  | [] =>
    if isMnemonic "wake" mnemonic then some .wake
    else if isMnemonic "enint" mnemonic then some .enint
    else if isMnemonic "read" mnemonic then some .read
    else none
  | [x] =>
    if isMnemonic "setacc" mnemonic then (parseAccel x).map .setacc
    else if isMnemonic "setgyr" mnemonic then (parseGyro x).map .setgyr
    else if isMnemonic "setdiv" mnemonic then (parseByte x).map .setdiv
    else none
  | [x, y] =>
    if isMnemonic "find" mnemonic then do return .find (← parseByte x) (← parseByte y)
    else none
  | [x, y, z] =>
    if isMnemonic "init" mnemonic then do return .init (← parseAccel x) (← parseGyro y) (← parseByte z)
    else none
  | _ => none

/-- One line of assembler text as a command. -/
def parseLine (line : String) : Option Instr :=
  let cs := trimBlanks line.toList
  let notBlank := fun c : Char => c != ' ' && c != '\t'
  let rest := trimBlanks (cs.dropWhile notBlank)
  parseCommand (cs.takeWhile notBlank) (if rest.isEmpty then [] else (splitAt ',' rest).map trimBlanks)

/-- One line of assembler text as a command word. -/
def assemble (line : String) : Option CommandWord := (parseLine line).map encode

/-- A program: one command a line. -/
def assembleProgram (lines : List String) : Option (List CommandWord) := lines.mapM assemble

end Sys2Proof.Machine
end

