-- ==== Sys2Proof/Machine/Ports.lean ====
section
/-! DEFINITION. The query ports (spec/10_state.md R37, R38): functions of the state, so that reading one
changes nothing, and defined only while the sequencer is Idle. -/

namespace Sys2Proof.Machine

/-- A query port's value: defined only while Idle (R38). -/
def State.query {α : Type} (f : State → α) (s : State) : Option α :=
  if s.seq.isIdle then some (f s) else none

/-- `q_err_kind` (R37(a)). -/
def State.queryErrKind (s : State) : Option ErrorKind := s.query fun t => t.err.kind

/-- `q_err_msg` (R37(b)). -/
def State.queryErrMsg (s : State) : Option String := s.query fun t => t.err.msg

/-- `q_cal[i]` (R37(c)). -/
def State.queryCal (k : Fin 7) (s : State) : Option Float32Bits := s.query fun t => t.cal.get k

/-- `q_raw[i]`, as an integer (R37(d)). -/
def State.queryRaw (k : Fin 7) (s : State) : Option Int := s.query fun t => rawval t.params.rawSignedness (t.raw.get k)

/-- `q_cfg` (R37(e)). -/
def State.queryCfg (s : State) : Option DeviceConfig := s.query fun t => t.cfg

end Sys2Proof.Machine
end

