-- ==== Sys2Proof/Safety.lean ====
section
/-! DEFINITION. What the block's behaviour must keep, in the terms the statements use: the wire contract on
every request (spec/20_memory.md R61 to R76), the places a running command can stand (spec/10_state.md R32),
and the invariants of a step. -/

namespace Sys2Proof.Machine

/-! ### The wire contract -/

/-- The values the block may write to a sensor register (R61 to R66): none for a register it does not write. -/
def writeAllowed (reg v : Byte) : Bool :=
  if reg = 0x6B then v == 0x00
  else if reg = 0x19 then true
  else if reg = 0x1B then v &&& 0xE7 == 0
  else if reg = 0x1C then v &&& 0xE7 == 0
  else if reg = 0x38 then v == 0x01
  else if reg = 0x37 then v &&& 0x10 == 0x10
  else false

/-- A request the block may issue: never to device address 0 (R73), always with `TIMEOUT` (R70), and either
a probe, a read of 1 or 14 bytes (R76), the selection of 0x37 or 0x3B (R69), or the write of an allowed value
to a register it writes (R68). -/
def Request.meetsWireContract (r : Request) : Bool :=
  r.dev != 0 && r.timeout == Config.timeout &&
    match r.op, r.data, r.len with
    | .probe, [], 0 => true
    | .read, [], n => n == 1 || n == 14
    | .write, [reg], 0 => reg == 0x37 || reg == 0x3B
    | .write, [reg, v], 0 => writeAllowed reg v
    | _, _, _ => false

/-! ### Where a running command can stand -/

/-- The last step of a command's pseudocode; for INIT, of the body its step `k` runs (R122 to R190). -/
def lastStep (i : Instr) (k : Nat) : Nat :=
  match i with
  | .setacc _ | .setgyr _ | .setdiv _ | .wake => 2
  | .enint => 4
  | .find _ _ => 2
  | .read => 2
  | .init _ _ _ =>
    match k with
    | 2 => 2
    | 3 => 2
    | 4 => 2
    | 5 => 2
    | 6 => 2
    | 7 => 4
    | _ => 0

/-- Is this INIT? -/
def Instr.isInit : Instr → Bool
  | .init _ _ _ => true
  | _ => false

/-- The position is one of the command's pseudocode. -/
def Position.legal (i : Instr) (p : Position) : Prop :=
  p.step ≤ lastStep i p.initStep ∧ (if Instr.isInit i then p.initStep ≤ 8 else p.initStep = 0)

/-- The body being run is a scan: FIND's, or INIT's step 2. -/
def Position.inScan (i : Instr) (p : Position) : Prop :=
  match i with
  | .find _ _ => True
  | .init _ _ _ => p.initStep = 2
  | _ => False

/-- The body being run is a register command's: any command's but FIND's and INIT's, or INIT's steps 3 to 7. -/
def Position.inRegisterBody (i : Instr) (p : Position) : Prop :=
  match i with
  | .find _ _ => False
  | .init _ _ _ => 3 ≤ p.initStep ∧ p.initStep ≤ 7
  | _ => True

/-! ### Invariants -/

/-- `err.msg` is the message of `err.kind` (R31), and every request issued met the wire contract. -/
def State.Sound (s : State) : Prop :=
  s.err.msg = Config.errMsg s.err.kind ∧ ∀ r ∈ s.requests, r.meetsWireContract = true

/-- What a running command's place in its pseudocode guarantees: past the check of step 0 a register
command's address is set (R120), and a scan that has not ended stands at an address other than 0 (R162). -/
def State.SequencerSound (s : State) : Prop :=
  match s.seq with
  | .idle => True
  | .run i p l =>
    Position.legal i p ∧
      (Position.inRegisterBody i p → 1 ≤ p.step → s.cfg.address ≠ 0) ∧
      (Position.inScan i p → p.step = 1 → l.scanEnded = false → l.scanAddress ≠ 0)

/-- The invariant of the block's own steps. -/
def State.BlockInv (s : State) : Prop := s.Sound ∧ s.SequencerSound

/-! ### The effect of a whole command, in the terms the statements use -/

/-- The state in which a command has ended with result `k`: `err` holds `k` and its message, the result port
has reported it, and the block is Idle (R16, R35). -/
def State.withResult (k : ErrorKind) (s : State) : State :=
  { s with err := { kind := k, msg := Config.errMsg k }, results := s.results ++ [k], seq := .idle }

/-- The state in which the transport has answered the requests `rs`, in this order. -/
def State.afterRequests (rs : List Request) (s : State) : State :=
  { s with requests := s.requests ++ rs, answers := s.answers.drop rs.length, drawn := s.drawn + rs.length }

/-- The status the transport answers the `k`-th transaction from here with, counted from 0 (R71, R72). -/
def State.statusAt (k : Nat) (s : State) : Status :=
  match s.answers[k]? with
  | some d => d.status
  | none => Config.freeStatus (s.drawn + k)

/-- The bytes an `Ok` read of `n` bytes carries if it is the `k`-th transaction from here (R71(b), R72). -/
def State.bytesAt (k n : Nat) (s : State) : List Byte :=
  (List.range n).map fun j =>
    match s.answers[k]? with
    | some d => d.bytes.getD j (Config.freeByte (s.drawn + k) j)
    | none => Config.freeByte (s.drawn + k) j

/-- A write of one byte to a register, as it goes to the transport (R68). -/
def writeOf (dev reg v : Byte) : Request :=
  { op := .write, dev := dev, data := [reg, v], len := 0, timeout := 5000 }

/-- The selection of a register, the first half of a read (R69). -/
def selectOf (dev reg : Byte) : Request :=
  { op := .write, dev := dev, data := [reg], len := 0, timeout := 5000 }

/-- The read of `n` bytes, the second half of a read (R69). -/
def readOf (dev : Byte) (n : Nat) : Request :=
  { op := .read, dev := dev, data := [], len := n, timeout := 5000 }

/-- The probe of an address (R70). -/
def probeOf (dev : Byte) : Request :=
  { op := .probe, dev := dev, data := [], len := 0, timeout := 5000 }

/-- ENINT's four transactions, where 0x37 reads `v` (R131, R132). -/
def enintRequests (dev v : Byte) : List Request :=
  [writeOf dev 0x38 0x01, selectOf dev 0x37, readOf dev 1, writeOf dev 0x37 (v ||| 0x10)]

/-- INIT's eight transactions after its scan, where 0x37 reads `v` (R170, R175). -/
def initRequests (dev : Byte) (acc : AccelRange) (gyr : GyroRange) (d v : Byte) : List Request :=
  [writeOf dev 0x6B 0x00, writeOf dev 0x1C (acc.code.zeroExtend 8 <<< 3), writeOf dev 0x1B (gyr.code.zeroExtend 8 <<< 3),
    writeOf dev 0x19 d] ++ enintRequests dev v

/-- The most transactions a command issues (R303); FIND issues at most one for each address of its list. -/
def worstTransactions (p : Params) : Instr → Nat
  | .setacc _ | .setgyr _ | .setdiv _ | .wake => 1
  | .enint => 4
  | .read => 2
  | .find first last => (scanList p.scanMode first last).length
  | .init _ _ _ => 262

/-- `n` steps of the block (R33). -/
def blockSteps : Nat → State → State
  | 0, s => s
  | n + 1, s => blockSteps n (blockStep s)

/-! ### Binary32 -/

/-- The exponent field of a pattern, bits 30:23. -/
def floatExponent (x : Float32Bits) : Nat := (x.extractLsb' 23 8).toNat

/-- The fraction field of a pattern, bits 22:0. -/
def floatFraction (x : Float32Bits) : Nat := (x.extractLsb' 0 23).toNat

/-- Neither an infinity nor a NaN. -/
def floatFinite (x : Float32Bits) : Prop := floatExponent x < 255

/-- +0.0, or a normal number: neither infinite, nor NaN, nor subnormal, nor -0.0. -/
def floatZeroOrNormal (x : Float32Bits) : Prop := x = 0 ∨ (1 ≤ floatExponent x ∧ floatExponent x < 255)

/-- The exact value of a finite pattern. -/
def floatValue (x : Float32Bits) : Rat :=
  (if x.msb then -1 else 1) *
    (if floatExponent x = 0 then (floatFraction x : Rat) * 2 ^ (-149 : Int)
     else (2 ^ 23 + floatFraction x : Rat) * 2 ^ ((floatExponent x : Int) - 150))

end Sys2Proof.Machine
end

