-- ==== Sys2Proof/Certificates/Slice0/Obligations.lean ====
section
/-! DEFINITION. The statements about the model. Each docstring names the spec's sentence it formalises, and
says where it rests on a choice of the spec's or the model's. -/

open Sys2Proof Sys2Proof.Machine

/-! ### Reset, acceptance of a command, decoding -/

/-- 10_state.md §9: the power-on values. The spec gives the address; the others are its decision D27 (log entry 1).
The last clause is 00_scope.md §4 (R8, R9): the three parameters at reset have their defaults, which is the
model's choice of where they stand (log entry 2). -/
def Obligations.ResetHoldsPowerOnValues : Prop :=
  State.reset.cfg = { address := 0x00, accelRange := .g2, gyroRange := .dps250, divider := 0x00 } ∧
    (∀ k, State.reset.raw.get k = 0x0000) ∧ (∀ k, State.reset.cal.get k = 0x00000000) ∧
    State.reset.err = { kind := .noError, msg := Config.errMsg .noError } ∧ State.reset.seq = .idle ∧
    State.reset.params = { scanMode := .bounded, rawSignedness := .signed, tempFormula := .datasheet }

/-- The invariant of the block's steps holds at power-on (Safety.lean `BlockInv`). -/
def Obligations.ResetMeetsBlockInvariant : Prop := State.reset.BlockInv

/-- 95_test_vectors.md §2.1: words written out from the field table of 30_encoding.md §1, one of each command
and some that are refused. The encoding is the spec's decisions D4 to D6; that a refusal names a reason, the opcode
or the first wrong operand byte, is the model's choice (log entry 16). -/
def Obligations.SampleWordsDecode : Prop :=
  decode 0x00000301 = .ok (.setacc .g16) ∧ decode 0x00000202 = .ok (.setgyr .dps1000) ∧
    decode 0x0000FF03 = .ok (.setdiv 255) ∧ decode 0x00000004 = .ok .wake ∧ decode 0x00000005 = .ok .enint ∧
    decode 0x00706006 = .ok (.find 0x60 0x70) ∧ decode 0xFF000307 = .ok (.init .g16 .dps250 255) ∧
    decode 0x00000008 = .ok .read ∧ decode 0x00000401 = .error (.reservedBits 0x01 .a) ∧
    decode 0x00010005 = .error (.reservedBits 0x05 .b) ∧ decode 0x01706006 = .error (.reservedBits 0x06 .c) ∧
    decode 0x00000000 = .error (.reservedOpcode 0x00) ∧ decode 0xFFFFFFFF = .error (.reservedOpcode 0xFF)

/-- 10_state.md §7 (R34): an Idle block accepts the word presented on the command port and starts the command it
decodes to. That the words stand in a queue of State is the model's choice (log entry 14), and so is that one
step runs the whole command, where R34 only starts it (log entry 5). Nothing else is added around the command's
meaning. -/
def Obligations.StepRunsDecodedCommand : Prop :=
  ∀ (s : State) (w : CommandWord) (rest : List CommandWord) (i : Instr),
    s.seq = .idle → s.commands = w :: rest → decode w = .ok i → step s = exec i { s with commands := rest }

/-- 30_encoding.md §3 (R104): a word that decodes to Refused is refused by name, with no next state. That the
refusal mark is the outcome `refused` is the model's form of R104 (log entry 6). -/
def Obligations.StepRefusesUndecodableWord : Prop :=
  ∀ (s : State) (w : CommandWord) (rest : List CommandWord) (why : DecodeError),
    s.seq = .idle → s.commands = w :: rest → decode w = .error why → step s = .refused (.wordRefused why)

/-- 10_state.md §1 (R20): the block never acts without a command. That a step with no command answers the
same state is the model's form of waiting (log entry 7). -/
def Obligations.IdleBlockWaits : Prop :=
  ∀ s : State, s.seq = .idle → s.commands = [] → step s = .next s

/-- 10_state.md §7 (R34) and 70_reset_and_hazards.md §3: there is no move that presents a command to a block
that is running one. That it is a refusal is the model's form (log entry 8). -/
def Obligations.BusyBlockTakesNoCommand : Prop :=
  ∀ (s : State) (i j : Instr) (p : Position) (l : Locals), s.seq = .run j p l → exec i s = .refused .commandWhileBusy

/-- Every command survives encoding and decoding, with every operand. -/
def Obligations.DecodeOfEncodeIsIdentity : Prop := ∀ i : Instr, decode (encode i) = .ok i

/-- A word that decodes to a command is that command's only word: no bit of it is ignored. -/
def Obligations.EncodeOfDecodeIsIdentity : Prop :=
  ∀ (w : CommandWord) (i : Instr), decode w = .ok i → encode i = w

/-- 30_encoding.md §3 (R103), its last sentence: each command is selected by exactly its row's match and mask. -/
def Obligations.DecodeFollowsOpcodeTable : Prop :=
  ∀ (w : CommandWord) (i : Instr),
    (decode w = .ok i → w &&& i.matchMask.2 = i.matchMask.1) ∧
      (w &&& i.matchMask.2 = i.matchMask.1 → ∃ j, decode w = .ok j ∧ j.matchMask = i.matchMask)

/-- 30_encoding.md §1 (R91, R93, R98) against §3 (R103): the decoder accepts exactly the words whose operand
bytes fit the operand table, and refuses every other one. -/
def Obligations.DecodeAcceptsExactlyWellFormedWords : Prop :=
  ∀ w : CommandWord,
    (wordWellFormed w = true → ∃ i, decode w = .ok i) ∧ (wordWellFormed w = false → ∃ why, decode w = .error why)

/-- 30_encoding.md §4 (R106): the word of each syntax form. -/
def Obligations.EncodeMatchesAssemblerForms : Prop :=
  (∀ acc, encode (.setacc acc) = 0x00000001 + (acc.code.zeroExtend 32 <<< 8)) ∧
    (∀ gyr, encode (.setgyr gyr) = 0x00000002 + (gyr.code.zeroExtend 32 <<< 8)) ∧
    (∀ d, encode (.setdiv d) = 0x00000003 + (d.zeroExtend 32 <<< 8)) ∧
    encode .wake = 0x00000004 ∧ encode .enint = 0x00000005 ∧
    (∀ a b, encode (.find a b) = 0x06 + (a.zeroExtend 32 <<< 8) + (b.zeroExtend 32 <<< 16)) ∧
    (∀ acc gyr d, encode (.init acc gyr d) =
      0x07 + (acc.code.zeroExtend 32 <<< 8) + (gyr.code.zeroExtend 32 <<< 16) + (d.zeroExtend 32 <<< 24)) ∧
    encode .read = 0x00000008

/-- 95_test_vectors.md §3: lines of the example programs and their words. -/
def Obligations.SampleLinesAssemble : Prop :=
  assemble "init 2g, 250dps, 0" = some 0x00000007 ∧ assemble "read" = some 0x00000008 ∧
    assemble "find 0x60, 0x70" = some 0x00706006 ∧ assemble "setacc 8g" = some 0x00000201 ∧
    assemble "setgyr 2000dps" = some 0x00000302 ∧ assemble "SETDIV 7" = some 0x00000703 ∧
    assemble "init 3, 3, 0x07" = some 0x07030307 ∧ assemble "setacc 5g" = none ∧ assemble "setdiv 256" = none

/-! ### Register values -/

/-- 30_encoding.md R99 and R100: the range byte of each code, for both sensors, and the divider byte. -/
def Obligations.RegisterValueEncodings : Prop :=
  (encRange AccelRange.g2.code = 0x00 ∧ encRange AccelRange.g4.code = 0x08 ∧ encRange AccelRange.g8.code = 0x10 ∧
      encRange AccelRange.g16.code = 0x18) ∧
    (encRange GyroRange.dps250.code = 0x00 ∧ encRange GyroRange.dps500.code = 0x08 ∧
      encRange GyroRange.dps1000.code = 0x10 ∧ encRange GyroRange.dps2000.code = 0x18) ∧
    (∀ c : BitVec 2, (encRange c).toNat = c.toNat * 8) ∧ ∀ d : Byte, encDiv d = d

/-- 41_discovery_init.md R161 and R162: the addresses of a scan list, ascending, never 0. -/
def Obligations.ScanListAddresses : Prop :=
  (∀ first last a : Byte, a ∈ scanList .bounded first last ↔
      max first.toNat 1 ≤ a.toNat ∧ a.toNat < last.toNat) ∧
    (∀ first last a : Byte, a ∈ scanList .fullScan first last ↔ 1 ≤ a.toNat ∧ a.toNat ≤ 254) ∧
    ∀ (mode : ScanMode) (first last : Byte),
      (scanList mode first last).Pairwise (fun a b => a.toNat < b.toNat) ∧ (0 : Byte) ∉ scanList mode first last

/-! ### The commands -/

/-- 40_config_encoder.md R122: SETACC, whole. The write goes out as one BusWrite of register and value, the
spec's packing of a MemWrite (R68, its decision D9). -/
def Obligations.SetaccFollowsItsRule : Prop :=
  (∀ acc, encode (.setacc acc) = 0x00000001 + (acc.code.zeroExtend 32 <<< 8)) ∧
  ∀ (s : State) (acc : AccelRange), s.seq = .idle →
    (s.cfg.address = 0 → exec (.setacc acc) s = .next (s.withResult .notConfigured)) ∧
    (s.cfg.address ≠ 0 → s.statusAt 0 = .ok →
      exec (.setacc acc) s = .next (State.withResult .noError
        { s.afterRequests [writeOf s.cfg.address 0x1C (acc.code.zeroExtend 8 <<< 3)] with
          cfg := { s.cfg with accelRange := acc } })) ∧
    ∀ k, s.cfg.address ≠ 0 → failKind (s.statusAt 0) = some k →
      exec (.setacc acc) s = .next (State.withResult k
        (s.afterRequests [writeOf s.cfg.address 0x1C (acc.code.zeroExtend 8 <<< 3)]))

/-- 40_config_encoder.md R124: SETGYR, whole (packing as in R68, decision D9). -/
def Obligations.SetgyrFollowsItsRule : Prop :=
  (∀ gyr, encode (.setgyr gyr) = 0x00000002 + (gyr.code.zeroExtend 32 <<< 8)) ∧
  ∀ (s : State) (gyr : GyroRange), s.seq = .idle →
    (s.cfg.address = 0 → exec (.setgyr gyr) s = .next (s.withResult .notConfigured)) ∧
    (s.cfg.address ≠ 0 → s.statusAt 0 = .ok →
      exec (.setgyr gyr) s = .next (State.withResult .noError
        { s.afterRequests [writeOf s.cfg.address 0x1B (gyr.code.zeroExtend 8 <<< 3)] with
          cfg := { s.cfg with gyroRange := gyr } })) ∧
    ∀ k, s.cfg.address ≠ 0 → failKind (s.statusAt 0) = some k →
      exec (.setgyr gyr) s = .next (State.withResult k
        (s.afterRequests [writeOf s.cfg.address 0x1B (gyr.code.zeroExtend 8 <<< 3)]))

/-- 40_config_encoder.md §4 (R126): SETDIV. That it stores the divider is the spec's decision D13. -/
def Obligations.SetdivFollowsItsRule : Prop :=
  ∀ (s : State) (d : Byte), s.seq = .idle →
    (s.cfg.address = 0 → exec (.setdiv d) s = .next (s.withResult .notConfigured)) ∧
    (s.cfg.address ≠ 0 → s.statusAt 0 = .ok →
      exec (.setdiv d) s = .next (State.withResult .noError
        { s.afterRequests [writeOf s.cfg.address 0x19 d] with cfg := { s.cfg with divider := d } })) ∧
    ∀ k, s.cfg.address ≠ 0 → failKind (s.statusAt 0) = some k →
      exec (.setdiv d) s = .next (State.withResult k (s.afterRequests [writeOf s.cfg.address 0x19 d]))

/-- 40_config_encoder.md R129: WAKE, whole (packing as in R68, decision D9). -/
def Obligations.WakeFollowsItsRule : Prop :=
  encode .wake = 0x00000004 ∧
  ∀ s : State, s.seq = .idle →
    (s.cfg.address = 0 → exec .wake s = .next (s.withResult .notConfigured)) ∧
    (s.cfg.address ≠ 0 → s.statusAt 0 = .ok →
      exec .wake s = .next (State.withResult .noError (s.afterRequests [writeOf s.cfg.address 0x6B 0x00]))) ∧
    ∀ k, s.cfg.address ≠ 0 → failKind (s.statusAt 0) = some k →
      exec .wake s = .next (State.withResult k (s.afterRequests [writeOf s.cfg.address 0x6B 0x00]))

/-- 40_config_encoder.md §6 (R131; its order and its final write are the spec's decision D18): ENINT. All four
answers `Ok`, or the `j`-th of them, counted from 0, the first that is not. -/
def Obligations.EnintFollowsItsRule : Prop :=
  ∀ s : State, s.seq = .idle →
    let requests := enintRequests s.cfg.address ((s.bytesAt 2 1).getD 0 0)
    (s.cfg.address = 0 → exec .enint s = .next (s.withResult .notConfigured)) ∧
    (s.cfg.address ≠ 0 → (∀ j, j < 4 → s.statusAt j = .ok) →
      exec .enint s = .next (State.withResult .noError (s.afterRequests requests))) ∧
    ∀ j k, s.cfg.address ≠ 0 → j < 4 → (∀ m, m < j → s.statusAt m = .ok) → failKind (s.statusAt j) = some k →
      exec .enint s = .next (State.withResult k (s.afterRequests (requests.take (j + 1))))

/-- 20_memory.md R66: ENINT's write back sets bit 4 of the byte read from 0x37 and keeps every other bit. -/
def Obligations.EnintChangesOnlyTheLatchBit : Prop :=
  ∀ s : State, s.seq = .idle → s.cfg.address ≠ 0 → (∀ j, j < 4 → s.statusAt j = .ok) →
    ∃ (t : State) (v w : Byte),
      exec .enint s = .next t ∧ s.bytesAt 2 1 = [v] ∧ t.requests.getLast? = some (writeOf s.cfg.address 0x37 w) ∧
        w.getLsbD 4 = true ∧ ∀ n, n ≠ 4 → w.getLsbD n = v.getLsbD n

/-- 41_discovery_init.md §1 (R160 to R163; the status mapping and the order are the spec's decisions D10 and
D14): FIND. The first acknowledged address of the scan list is latched and the scan stops there; with none,
`cfg` stays as it was. -/
def Obligations.FindFollowsItsRule : Prop :=
  ∀ (s : State) (first last : Byte), s.seq = .idle →
    (∀ (before after : List Byte) (a : Byte),
      scanList s.params.scanMode first last = before ++ a :: after →
      (∀ j, j < before.length → s.statusAt j ≠ .ok) → s.statusAt before.length = .ok →
      exec (.find first last) s = .next (State.withResult .noError
        { s.afterRequests ((before ++ [a]).map probeOf) with cfg := { s.cfg with address := a } })) ∧
    ((∀ j, j < (scanList s.params.scanMode first last).length → s.statusAt j ≠ .ok) →
      exec (.find first last) s = .next (State.withResult .deviceNotFound
        (s.afterRequests ((scanList s.params.scanMode first last).map probeOf))))

/-- 41_discovery_init.md R170, R172 and R173: INIT, from its acceptance to its one result. `n` transactions
find the device, then eight configure it; the first that fails ends INIT with what was done before it kept.
(Its scan list is the spec's decision D16, and what step 1 clears its decision D17.) -/
def Obligations.InitFollowsItsRule : Prop :=
  ∀ (s : State) (acc : AccelRange) (gyr : GyroRange) (d : Byte), s.seq = .idle →
    let cleared := { s with raw := Seven.replicate 0, cal := Seven.replicate 0 }
    ((∀ j, j < 254 → s.statusAt j ≠ .ok) →
      exec (.init acc gyr d) s = .next (State.withResult .deviceNotFound
        (cleared.afterRequests (initScanList.map probeOf)))) ∧
    ∀ (before after : List Byte) (a : Byte),
      initScanList = before ++ a :: after →
      (∀ j, j < before.length → s.statusAt j ≠ .ok) → s.statusAt before.length = .ok →
      let n := before.length + 1
      let requests := initRequests a acc gyr d ((s.bytesAt (n + 6) 1).getD 0 0)
      ((∀ j, j < 8 → s.statusAt (n + j) = .ok) →
        exec (.init acc gyr d) s = .next (State.withResult .noError
          { cleared.afterRequests ((before ++ [a]).map probeOf ++ requests) with
            cfg := { address := a, accelRange := acc, gyroRange := gyr, divider := d } })) ∧
      ∀ j k, j < 8 → (∀ m, m < j → s.statusAt (n + m) = .ok) → failKind (s.statusAt (n + j)) = some k →
        exec (.init acc gyr d) s = .next (State.withResult k
          { cleared.afterRequests ((before ++ [a]).map probeOf ++ requests.take (j + 1)) with
            cfg := { address := a
                     accelRange := if 1 < j then acc else s.cfg.accelRange
                     gyroRange := if 2 < j then gyr else s.cfg.gyroRange
                     divider := if 3 < j then d else s.cfg.divider } })

/-- 41_discovery_init.md §2 (R174): INIT's scan list is 1 to 254, ascending (decision D16). -/
def Obligations.InitScansAllAddresses : Prop :=
  initScanList.length = 254 ∧ ∀ k, k < 254 → initScanList[k]? = some (BitVec.ofNat 8 (k + 1))

/-- 42_acquisition.md R190 and R192: READ, whole. Both answers `Ok`: the burst's big-endian pairs become
`raw`, and `cal` is calibrated from them with the ranges held. Either answer a failure: neither is written. -/
def Obligations.ReadFollowsItsRule : Prop :=
  encode .read = 0x00000008 ∧
  ∀ s : State, s.seq = .idle →
    let b := s.bytesAt 1 14
    let words := Seven.ofFn fun k => be16 (b.getD (2 * k) 0) (b.getD (2 * k + 1) 0)
    let select := selectOf s.cfg.address 0x3B
    let burst := readOf s.cfg.address 14
    b.length = 14 ∧
    (s.cfg.address = 0 → exec .read s = .next (s.withResult .notConfigured)) ∧
    (s.cfg.address ≠ 0 → s.statusAt 0 = .ok → s.statusAt 1 = .ok →
      exec .read s = .next (State.withResult .noError
        { s.afterRequests [select, burst] with
          raw := words, cal := calibrate s.params words s.cfg.accelRange s.cfg.gyroRange })) ∧
    (∀ k, s.cfg.address ≠ 0 → failKind (s.statusAt 0) = some k →
      exec .read s = .next (State.withResult k (s.afterRequests [select]))) ∧
    ∀ k, s.cfg.address ≠ 0 → s.statusAt 0 = .ok → failKind (s.statusAt 1) = some k →
      exec .read s = .next (State.withResult k (s.afterRequests [select, burst]))

/-- 42_acquisition.md R192: a READ that fails writes neither `raw` nor `cal`, and `err` holds the failure's kind. -/
def Obligations.FailedReadKeepsSamples : Prop :=
  ∀ s : State, s.seq = .idle →
    (s.cfg.address = 0 →
      ∃ t, exec .read s = .next t ∧ t.raw = s.raw ∧ t.cal = s.cal ∧ t.err.kind = .notConfigured) ∧
    ∀ (st : Status) (k : ErrorKind), s.cfg.address ≠ 0 → failKind st = some k →
      s.statusAt 0 = st ∨ (s.statusAt 0 = .ok ∧ s.statusAt 1 = st) →
      ∃ t, exec .read s = .next t ∧ t.raw = s.raw ∧ t.cal = s.cal ∧ t.err.kind = k

/-- 10_state.md R27, and §4 (R29) for `cal`: a step of the block changes the sample files only where READ succeeds,
all seven entries together, or in INIT's step 1, to zeros. -/
def Obligations.SamplesChangeInTwoWays : Prop :=
  ∀ s : State, s.SequencerSound →
    ((blockStep s).raw = s.raw ∧ (blockStep s).cal = s.cal) ∨
    (∃ (p : Position) (l : Locals), s.seq = .run .read p l ∧ (blockStep s).seq = .idle ∧
      (blockStep s).err.kind = .noError ∧
      (∀ k : Fin 7, (blockStep s).raw.get k = be16 (l.b.getD (2 * k) 0) (l.b.getD (2 * k + 1) 0)) ∧
      (blockStep s).cal = calibrate s.params (blockStep s).raw s.cfg.accelRange s.cfg.gyroRange) ∨
    (∃ (acc : AccelRange) (gyr : GyroRange) (d : Byte) (p : Position) (l : Locals),
      s.seq = .run (.init acc gyr d) p l ∧ p.initStep = 1 ∧ (∀ k, (blockStep s).raw.get k = 0x0000) ∧
        ∀ k, (blockStep s).cal.get k = 0x00000000)

/-! ### Errors -/

/-- 60_exceptions.md R252: NotConfigured, raised by the six register commands before any transaction where the
address is unset, and never by FIND or INIT. -/
def Obligations.NotConfiguredIsRaisedBeforeAnyTransaction : Prop :=
  (∀ (s : State) (i : Instr), s.seq = .idle → s.cfg.address = 0 →
      (∃ acc, i = .setacc acc) ∨ (∃ gyr, i = .setgyr gyr) ∨ (∃ d, i = .setdiv d) ∨ i = .wake ∨ i = .enint ∨ i = .read →
      exec i s = .next (s.withResult .notConfigured)) ∧
    ∀ (s t : State) (i : Instr), (∃ a b, i = .find a b) ∨ (∃ acc gyr d, i = .init acc gyr d) →
      exec i s = .next t → t.err.kind ≠ .notConfigured

/-- 60_exceptions.md §1 (R250, decision D23) and 00_scope.md §5 (R17, decision D10): the codes of the kinds, none of
them 6 or 7, and the kind of each failure status. -/
def Obligations.ErrorCodesAndStatusKinds : Prop :=
  (errorCode .noError = 0 ∧ errorCode .notConfigured = 1 ∧ errorCode .deviceNotFound = 2 ∧ errorCode .timeout = 3 ∧
      errorCode .busy = 4 ∧ errorCode .transportError = 5) ∧
    (∀ k, (errorCode k).toNat < 6) ∧
    (failKind .timeout = some .timeout ∧ failKind .busy = some .busy ∧ failKind .error = some .transportError ∧
      failKind .ok = none)

/-- 60_exceptions.md R256, R259 and 10_state.md §7 (R35, decision D25): every command, from every Idle state and
under every answer, ends Idle with exactly one result, which is what `err` holds. -/
def Obligations.EveryCommandEndsWithOneResult : Prop :=
  ∀ (s : State) (i : Instr), s.seq = .idle →
    ∃ (t : State) (k : ErrorKind), exec i s = .next t ∧ t.seq = .idle ∧ t.results = s.results ++ [k] ∧
      t.err = { kind := k, msg := Config.errMsg k }

/-- 40_config_encoder.md §1 (R121), 41_discovery_init.md §1 (R163), 42_acquisition.md (R192): a command other
than INIT that ends in an error has changed neither `cfg` nor `raw` nor `cal`. -/
def Obligations.FailedCommandKeepsRegisters : Prop :=
  ∀ (s t : State) (i : Instr), (∀ acc gyr d, i ≠ .init acc gyr d) → exec i s = .next t → t.err.kind ≠ .noError →
    t.cfg = s.cfg ∧ t.raw = s.raw ∧ t.cal = s.cal

/-- 60_exceptions.md R259: the block never enters a fault state. Stated for every state that meets the
invariant of the block's steps, one that is running a command included. -/
def Obligations.BlockNeverFaults : Prop :=
  ∀ (s : State) (f : Fault), s.BlockInv → step s ≠ .fault f

/-! ### What each command may change -/

/-- 10_state.md §2 (R21), its column "written by": each register of the block changes only by the commands that
the table names, and the parameters, the command port's queue and earlier results never change. -/
def Obligations.OnlyTheNamedCommandsWriteARegister : Prop :=
  ∀ (s t : State) (i : Instr), exec i s = .next t →
    ((∀ a b, i ≠ .find a b) → (∀ acc gyr d, i ≠ .init acc gyr d) → t.cfg.address = s.cfg.address) ∧
    ((∀ acc, i ≠ .setacc acc) → (∀ acc gyr d, i ≠ .init acc gyr d) → t.cfg.accelRange = s.cfg.accelRange) ∧
    ((∀ gyr, i ≠ .setgyr gyr) → (∀ acc gyr d, i ≠ .init acc gyr d) → t.cfg.gyroRange = s.cfg.gyroRange) ∧
    ((∀ d, i ≠ .setdiv d) → (∀ acc gyr d, i ≠ .init acc gyr d) → t.cfg.divider = s.cfg.divider) ∧
    (i ≠ .read → (∀ acc gyr d, i ≠ .init acc gyr d) → t.raw = s.raw ∧ t.cal = s.cal) ∧
    t.params = s.params ∧ t.commands = s.commands ∧ s.results <+: t.results ∧ s.requests <+: t.requests

/-- The values a command may leave in the registers it writes: its operand or the old value in a
configuration field; for READ the old samples or a calibrated burst, never a part of one (10_state.md R27 and
20_memory.md R77); for INIT cleared samples. -/
def Obligations.WrittenRegistersHoldOperandOrOldValue : Prop :=
  ∀ (s t : State),
    (∀ acc, exec (.setacc acc) s = .next t → t.cfg.accelRange = acc ∨ t.cfg.accelRange = s.cfg.accelRange) ∧
    (∀ gyr, exec (.setgyr gyr) s = .next t → t.cfg.gyroRange = gyr ∨ t.cfg.gyroRange = s.cfg.gyroRange) ∧
    (∀ d, exec (.setdiv d) s = .next t → t.cfg.divider = d ∨ t.cfg.divider = s.cfg.divider) ∧
    (∀ a b, exec (.find a b) s = .next t →
      t.cfg.address ∈ scanList s.params.scanMode a b ∨ t.cfg.address = s.cfg.address) ∧
    (exec .read s = .next t →
      (t.raw = s.raw ∧ t.cal = s.cal) ∨
        (t.raw = burstWords (s.bytesAt 1 14) ∧
          t.cal = calibrate s.params (burstWords (s.bytesAt 1 14)) s.cfg.accelRange s.cfg.gyroRange)) ∧
    ∀ acc gyr d, exec (.init acc gyr d) s = .next t →
      t.raw = Seven.replicate 0 ∧ t.cal = Seven.replicate 0 ∧
      (t.cfg.accelRange = acc ∨ t.cfg.accelRange = s.cfg.accelRange) ∧
      (t.cfg.gyroRange = gyr ∨ t.cfg.gyroRange = s.cfg.gyroRange) ∧
      (t.cfg.divider = d ∨ t.cfg.divider = s.cfg.divider) ∧
      (t.cfg.address ∈ initScanList ∨ t.cfg.address = s.cfg.address)

/-- 70_reset_and_hazards.md §4 (R303): the most transactions each command issues. -/
def Obligations.CommandsIssueBoundedTransactions : Prop :=
  ∀ (s t : State) (i : Instr), exec i s = .next t →
    ∃ rs : List Request, t.requests = s.requests ++ rs ∧ rs.length ≤ worstTransactions s.params i ∧
      t.answers = s.answers.drop rs.length ∧ t.drawn = s.drawn + rs.length

/-! ### Invariants and the block's own steps -/

/-- The message invariant and the wire contract hold after every step of the machine. -/
def Obligations.StepKeepsBlockInvariant : Prop :=
  ∀ s t : State, s.BlockInv → step s = .next t → t.BlockInv

/-- The same for every step of the block, between which a command is part way. -/
def Obligations.BlockStepKeepsInvariant : Prop :=
  ∀ s : State, s.BlockInv → (blockStep s).BlockInv

/-- 41_discovery_init.md §1 (R162, decision D14): once set, the address stays set. -/
def Obligations.AddressStaysSet : Prop :=
  ∀ s t : State, s.SequencerSound → s.cfg.address ≠ 0 → step s = .next t → t.cfg.address ≠ 0

/-- 10_state.md §6 (R33): one step of the block is internal work, or exactly one transaction whose answer it
consumes. -/
def Obligations.BlockStepIssuesAtMostOneTransaction : Prop :=
  ∀ s : State,
    ((blockStep s).requests = s.requests ∧ (blockStep s).answers = s.answers ∧ (blockStep s).drawn = s.drawn) ∨
      ∃ r, (blockStep s).requests = s.requests ++ [r] ∧ (blockStep s).answers = s.answers.tail ∧
        (blockStep s).drawn = s.drawn + 1

/-- 10_state.md §6 and §7 (R32 to R34): a command's meaning is its acceptance followed by steps of the block
until it is Idle, at most 276 of them. That a meaning is a whole command is the model's choice (log entry 5). The
bound is in no rule: it counts INIT's internal steps, and a MemRead's two, as the model does (log entries 9 and
10, DEDUCED). -/
def Obligations.CommandIsItsBlockSteps : Prop :=
  ∀ (s : State) (i : Instr), s.seq = .idle →
    ∃ n, n ≤ 276 ∧ exec i s = .next (blockSteps n (s.start i)) ∧ (blockSteps n (s.start i)).seq = .idle ∧
      ∀ m, m < n → (blockSteps m (s.start i)).seq ≠ .idle

/-- 60_exceptions.md R256: a step of the block that raises an error changes, beside the transaction it has just
made and the result port, only `err` and the sequencer. -/
def Obligations.ErrorsArePrecise : Prop :=
  ∀ s : State, s.seq ≠ .idle → (blockStep s).seq = .idle → (blockStep s).err.kind ≠ .noError →
    (blockStep s).cfg = s.cfg ∧ (blockStep s).raw = s.raw ∧ (blockStep s).cal = s.cal ∧
      (blockStep s).params = s.params ∧ (blockStep s).commands = s.commands ∧
      (blockStep s).results = s.results ++ [(blockStep s).err.kind] ∧
      (blockStep s).err.msg = Config.errMsg (blockStep s).err.kind

/-! ### Query ports -/

/-- 10_state.md §7 (R37, R38; port (e) is the spec's decision D26): the query ports of an Idle block, and none
while it runs. R38 says only that they are defined only while Idle: that a port has no value then, an option, is
the model's form of it (log entry 13). -/
def Obligations.QueryPortsShowTheState : Prop :=
  (∀ s : State, s.seq = .idle →
      s.queryErrKind = some s.err.kind ∧ s.queryErrMsg = some s.err.msg ∧ (∀ k, s.queryCal k = some (s.cal.get k)) ∧
        (∀ k, s.queryRaw k = some (rawval s.params.rawSignedness (s.raw.get k))) ∧ s.queryCfg = some s.cfg) ∧
    ∀ (s : State) (i : Instr) (p : Position) (l : Locals), s.seq = .run i p l →
      s.queryErrKind = none ∧ s.queryErrMsg = none ∧ (∀ k, s.queryCal k = none) ∧ (∀ k, s.queryRaw k = none) ∧
        s.queryCfg = none

/-! ### Calibration -/

/-- 00_scope.md §5 (R14) and 10_state.md §4 (R28): the two readings of a raw word. -/
def Obligations.RawWordReadings : Prop :=
  ∀ w : Word,
    rawval .signed w = (if w.getLsbD 15 then (w.toNat : Int) - 65536 else (w.toNat : Int)) ∧
      rawval .referenceUnsigned w = (w.toNat : Int)

/-- 43_calibration.md R210: each of the seven elements of Calibrate, with `TO_FLOAT` any function, and the two scale
tables (R211; R212, whose decimals are exact by decision D22). -/
def Obligations.CalibrateElements : Prop :=
  (accelLsb .g2 = 16384 ∧ accelLsb .g4 = 8192 ∧ accelLsb .g8 = 4096 ∧ accelLsb .g16 = 2048) ∧
  (gyroLsb .dps250 = 131 ∧ gyroLsb .dps500 = 131 / 2 ∧ gyroLsb .dps1000 = 164 / 5 ∧ gyroLsb .dps2000 = 82 / 5) ∧
  ∀ (toF : Rat → Float32Bits) (p : Params) (r : Seven Word) (acc : AccelRange) (gyr : GyroRange) (k : Fin 7),
    (calibrateWith toF p r acc gyr).get k =
      if k.val ≤ 2 then toF ((rawval p.rawSignedness (r.get k) : Rat) / accelLsb acc)
      else if k.val = 3 then toF (temperature p.tempFormula (rawval p.rawSignedness (r.get k)))
      else toF ((rawval p.rawSignedness (r.get k) : Rat) / gyroLsb gyr)

/-- 43_calibration.md R214: the accelerometer elements, with `TO_FLOAT` any function, the scale table (§1, R211), and
the range of the exact quotient under `Signed`. -/
def Obligations.AccelerometerElements : Prop :=
  (accelLsb .g2 = 16384 ∧ accelLsb .g4 = 8192 ∧ accelLsb .g8 = 4096 ∧ accelLsb .g16 = 2048) ∧
  (∀ (toF : Rat → Float32Bits) (p : Params) (r : Seven Word) (acc : AccelRange) (gyr : GyroRange) (k : Fin 7),
      k.val ≤ 2 → (calibrateWith toF p r acc gyr).get k = toF ((rawval p.rawSignedness (r.get k) : Rat) / accelLsb acc)) ∧
    (∀ (w : Word) (acc : AccelRange), -32768 / accelLsb acc ≤ (rawval .signed w : Rat) / accelLsb acc ∧
      (rawval .signed w : Rat) / accelLsb acc ≤ 32767 / accelLsb acc) ∧
    (-32768 / accelLsb .g2 = -2 ∧ 32767 / accelLsb .g2 = 1.99993896484375) ∧
    (-32768 / accelLsb .g16 = -16 ∧ 32767 / accelLsb .g16 = 15.99951171875)

/-- 43_calibration.md R215: the gyroscope elements, with `TO_FLOAT` any function, and the range of the exact
quotient under `Signed`. -/
def Obligations.GyroscopeElements : Prop :=
  (∀ (toF : Rat → Float32Bits) (p : Params) (r : Seven Word) (acc : AccelRange) (gyr : GyroRange) (k : Fin 7),
      4 ≤ k.val → (calibrateWith toF p r acc gyr).get k = toF ((rawval p.rawSignedness (r.get k) : Rat) / gyroLsb gyr)) ∧
    (∀ (w : Word) (gyr : GyroRange), -32768 / gyroLsb gyr ≤ (rawval .signed w : Rat) / gyroLsb gyr ∧
      (rawval .signed w : Rat) / gyroLsb gyr ≤ 32767 / gyroLsb gyr) ∧
    (-32768 / gyroLsb .dps2000 = -81920 / 41 ∧ 32767 / gyroLsb .dps2000 = 163835 / 82) ∧
    |(-81920 / 41 : Rat) - (-1998.0488)| < 0.0001 ∧ |(163835 / 82 : Rat) - 1997.9878| < 0.0001

/-- 43_calibration.md R217: the temperature element under the reference formula, rounded once, with `TO_FLOAT` any
function; the two formulas agree only at 0, where both give 36.53. -/
def Obligations.ReferenceTemperature : Prop :=
  (∀ (toF : Rat → Float32Bits) (p : Params) (r : Seven Word) (acc : AccelRange) (gyr : GyroRange),
      (calibrateWith toF { p with tempFormula := .reference } r acc gyr).temperature =
        toF (-((rawval p.rawSignedness r.temperature : Rat) / 340) + 36.53)) ∧
    (∀ t : Int, temperature .datasheet t = temperature .reference t ↔ t = 0) ∧
    temperature .datasheet 0 = 36.53 ∧ temperature .reference 0 = 36.53

/-- 43_calibration.md §3 (R216, decision D20): the temperature element under the default formula. -/
def Obligations.DatasheetTemperature : Prop :=
  ∀ (toF : Rat → Float32Bits) (p : Params) (r : Seven Word) (acc : AccelRange) (gyr : GyroRange),
    (calibrateWith toF { p with tempFormula := .datasheet } r acc gyr).temperature =
      toF ((rawval p.rawSignedness r.temperature : Rat) / 340 + 36.53)

/-- 95_test_vectors.md §1 and §2.7: calibrated values with the default `TO_FLOAT` (decision D21). -/
def Obligations.SampleCalibrations : Prop :=
  toFloat (accelExact .signed .g2 0xC000) = 0xBF800000 ∧ toFloat (accelExact .referenceUnsigned .g2 0xC000) = 0x40400000 ∧
    toFloat (gyroExact .signed .dps250 0x0083) = 0x3F800000 ∧ toFloat (gyroExact .signed .dps250 0x0001) = 0x3BFA232D ∧
    toFloat (gyroExact .signed .dps1000 0x0148) = 0x41200000 ∧ toFloat (gyroExact .signed .dps500 0x0041) = 0x3F7E0BBA ∧
    toFloat (temperature .datasheet 0) = 0x42121EB8 ∧ toFloat (temperature .reference 0) = 0x42121EB8 ∧
    toFloat (temperature .datasheet (-521)) = 0x420BFD97 ∧ toFloat (temperature .reference (-521)) = 0x42183FD9

/-- 43_calibration.md §4 (R219, second bullet): every accelerometer result is exact. -/
def Obligations.AccelerometerResultsAreExact : Prop :=
  ∀ (mode : RawSignedness) (acc : AccelRange) (w : Word),
    floatFinite (toFloat (accelExact mode acc w)) ∧
      floatValue (toFloat (accelExact mode acc w)) = accelExact mode acc w

/-- 43_calibration.md §4 (R219, first bullet): no result is NaN, infinite, subnormal or -0.0. -/
def Obligations.CalibrationResultsAreZeroOrNormal : Prop :=
  ∀ (p : Params) (r : Seven Word) (acc : AccelRange) (gyr : GyroRange) (k : Fin 7),
    floatZeroOrNormal ((calibrate p r acc gyr).get k)

/-- 43_calibration.md §4 (R221): under `Signed`, the accelerometer and gyroscope results of opposite nonzero raw
values differ in the sign bit alone; -32768 has no opposite. -/
def Obligations.CalibrationIsOdd : Prop :=
  ∀ (w : Word) (acc : AccelRange) (gyr : GyroRange), w ≠ 0 → w ≠ 0x8000 →
    toFloat (accelExact .signed acc (-w)) = toFloat (accelExact .signed acc w) ^^^ 0x80000000 ∧
      toFloat (gyroExact .signed gyr (-w)) = toFloat (gyroExact .signed gyr w) ^^^ 0x80000000

/-- 43_calibration.md §4 (R218; the format is general knowledge, entry G6, and its use decision D21): the default
`TO_FLOAT` gives a nearest binary32 value, the even one where two are as near, for every rational below the
threshold of overflow, and +0.0 for 0. -/
def Obligations.ToFloatRoundsToNearestEven : Prop :=
  toFloat 0 = 0 ∧
    ∀ q : Rat, |q| < 2 ^ 128 - 2 ^ 103 →
      floatFinite (toFloat q) ∧
        ∀ x : Float32Bits, floatFinite x →
          |floatValue (toFloat q) - q| ≤ |floatValue x - q| ∧
            (|floatValue (toFloat q) - q| = |floatValue x - q| → floatValue x ≠ floatValue (toFloat q) →
              (toFloat q).getLsbD 0 = false)
end

