-- ==== Sys2Proof/Laws/State.lean ====
section
/-! SUPPORT. The small lemmas of the state's updates: what each named update does to each field, and how the
statements' own forms (`withResult`, `afterRequests`) compose. -/

namespace Sys2Proof.Machine

/-- The state with the sequencer running command `i` at position `p` with temporaries `l`. -/
def State.running (i : Instr) (p : Position) (l : Locals) (s : State) : State := { s with seq := .run i p l }

namespace State

/-! ### Register writes -/

@[simp] theorem setAddress_address (a : Byte) (s : State) : (s.setAddress a).cfg.address = a := rfl
@[simp] theorem setAddress_accelRange (a : Byte) (s : State) : (s.setAddress a).cfg.accelRange = s.cfg.accelRange := rfl
@[simp] theorem setAddress_gyroRange (a : Byte) (s : State) : (s.setAddress a).cfg.gyroRange = s.cfg.gyroRange := rfl
@[simp] theorem setAddress_divider (a : Byte) (s : State) : (s.setAddress a).cfg.divider = s.cfg.divider := rfl
@[simp] theorem setAddress_raw (a : Byte) (s : State) : (s.setAddress a).raw = s.raw := rfl
@[simp] theorem setAddress_cal (a : Byte) (s : State) : (s.setAddress a).cal = s.cal := rfl
@[simp] theorem setAddress_err (a : Byte) (s : State) : (s.setAddress a).err = s.err := rfl
@[simp] theorem setAddress_seq (a : Byte) (s : State) : (s.setAddress a).seq = s.seq := rfl
@[simp] theorem setAddress_params (a : Byte) (s : State) : (s.setAddress a).params = s.params := rfl
@[simp] theorem setAddress_commands (a : Byte) (s : State) : (s.setAddress a).commands = s.commands := rfl
@[simp] theorem setAddress_results (a : Byte) (s : State) : (s.setAddress a).results = s.results := rfl
@[simp] theorem setAddress_answers (a : Byte) (s : State) : (s.setAddress a).answers = s.answers := rfl
@[simp] theorem setAddress_drawn (a : Byte) (s : State) : (s.setAddress a).drawn = s.drawn := rfl
@[simp] theorem setAddress_requests (a : Byte) (s : State) : (s.setAddress a).requests = s.requests := rfl

@[simp] theorem setAccelRange_address (r : AccelRange) (s : State) : (s.setAccelRange r).cfg.address = s.cfg.address := rfl
@[simp] theorem setAccelRange_accelRange (r : AccelRange) (s : State) : (s.setAccelRange r).cfg.accelRange = r := rfl
@[simp] theorem setAccelRange_gyroRange (r : AccelRange) (s : State) : (s.setAccelRange r).cfg.gyroRange = s.cfg.gyroRange := rfl
@[simp] theorem setAccelRange_divider (r : AccelRange) (s : State) : (s.setAccelRange r).cfg.divider = s.cfg.divider := rfl
@[simp] theorem setAccelRange_raw (r : AccelRange) (s : State) : (s.setAccelRange r).raw = s.raw := rfl
@[simp] theorem setAccelRange_cal (r : AccelRange) (s : State) : (s.setAccelRange r).cal = s.cal := rfl
@[simp] theorem setAccelRange_err (r : AccelRange) (s : State) : (s.setAccelRange r).err = s.err := rfl
@[simp] theorem setAccelRange_seq (r : AccelRange) (s : State) : (s.setAccelRange r).seq = s.seq := rfl
@[simp] theorem setAccelRange_params (r : AccelRange) (s : State) : (s.setAccelRange r).params = s.params := rfl
@[simp] theorem setAccelRange_commands (r : AccelRange) (s : State) : (s.setAccelRange r).commands = s.commands := rfl
@[simp] theorem setAccelRange_results (r : AccelRange) (s : State) : (s.setAccelRange r).results = s.results := rfl
@[simp] theorem setAccelRange_answers (r : AccelRange) (s : State) : (s.setAccelRange r).answers = s.answers := rfl
@[simp] theorem setAccelRange_drawn (r : AccelRange) (s : State) : (s.setAccelRange r).drawn = s.drawn := rfl
@[simp] theorem setAccelRange_requests (r : AccelRange) (s : State) : (s.setAccelRange r).requests = s.requests := rfl

@[simp] theorem setGyroRange_address (r : GyroRange) (s : State) : (s.setGyroRange r).cfg.address = s.cfg.address := rfl
@[simp] theorem setGyroRange_accelRange (r : GyroRange) (s : State) : (s.setGyroRange r).cfg.accelRange = s.cfg.accelRange := rfl
@[simp] theorem setGyroRange_gyroRange (r : GyroRange) (s : State) : (s.setGyroRange r).cfg.gyroRange = r := rfl
@[simp] theorem setGyroRange_divider (r : GyroRange) (s : State) : (s.setGyroRange r).cfg.divider = s.cfg.divider := rfl
@[simp] theorem setGyroRange_raw (r : GyroRange) (s : State) : (s.setGyroRange r).raw = s.raw := rfl
@[simp] theorem setGyroRange_cal (r : GyroRange) (s : State) : (s.setGyroRange r).cal = s.cal := rfl
@[simp] theorem setGyroRange_err (r : GyroRange) (s : State) : (s.setGyroRange r).err = s.err := rfl
@[simp] theorem setGyroRange_seq (r : GyroRange) (s : State) : (s.setGyroRange r).seq = s.seq := rfl
@[simp] theorem setGyroRange_params (r : GyroRange) (s : State) : (s.setGyroRange r).params = s.params := rfl
@[simp] theorem setGyroRange_commands (r : GyroRange) (s : State) : (s.setGyroRange r).commands = s.commands := rfl
@[simp] theorem setGyroRange_results (r : GyroRange) (s : State) : (s.setGyroRange r).results = s.results := rfl
@[simp] theorem setGyroRange_answers (r : GyroRange) (s : State) : (s.setGyroRange r).answers = s.answers := rfl
@[simp] theorem setGyroRange_drawn (r : GyroRange) (s : State) : (s.setGyroRange r).drawn = s.drawn := rfl
@[simp] theorem setGyroRange_requests (r : GyroRange) (s : State) : (s.setGyroRange r).requests = s.requests := rfl

@[simp] theorem setDivider_address (d : Byte) (s : State) : (s.setDivider d).cfg.address = s.cfg.address := rfl
@[simp] theorem setDivider_accelRange (d : Byte) (s : State) : (s.setDivider d).cfg.accelRange = s.cfg.accelRange := rfl
@[simp] theorem setDivider_gyroRange (d : Byte) (s : State) : (s.setDivider d).cfg.gyroRange = s.cfg.gyroRange := rfl
@[simp] theorem setDivider_divider (d : Byte) (s : State) : (s.setDivider d).cfg.divider = d := rfl
@[simp] theorem setDivider_raw (d : Byte) (s : State) : (s.setDivider d).raw = s.raw := rfl
@[simp] theorem setDivider_cal (d : Byte) (s : State) : (s.setDivider d).cal = s.cal := rfl
@[simp] theorem setDivider_err (d : Byte) (s : State) : (s.setDivider d).err = s.err := rfl
@[simp] theorem setDivider_seq (d : Byte) (s : State) : (s.setDivider d).seq = s.seq := rfl
@[simp] theorem setDivider_params (d : Byte) (s : State) : (s.setDivider d).params = s.params := rfl
@[simp] theorem setDivider_commands (d : Byte) (s : State) : (s.setDivider d).commands = s.commands := rfl
@[simp] theorem setDivider_results (d : Byte) (s : State) : (s.setDivider d).results = s.results := rfl
@[simp] theorem setDivider_answers (d : Byte) (s : State) : (s.setDivider d).answers = s.answers := rfl
@[simp] theorem setDivider_drawn (d : Byte) (s : State) : (s.setDivider d).drawn = s.drawn := rfl
@[simp] theorem setDivider_requests (d : Byte) (s : State) : (s.setDivider d).requests = s.requests := rfl

@[simp] theorem setSamples_cfg (raw : Seven Word) (cal : Seven Float32Bits) (s : State) : (s.setSamples raw cal).cfg = s.cfg := rfl
@[simp] theorem setSamples_raw (raw : Seven Word) (cal : Seven Float32Bits) (s : State) : (s.setSamples raw cal).raw = raw := rfl
@[simp] theorem setSamples_cal (raw : Seven Word) (cal : Seven Float32Bits) (s : State) : (s.setSamples raw cal).cal = cal := rfl
@[simp] theorem setSamples_err (raw : Seven Word) (cal : Seven Float32Bits) (s : State) : (s.setSamples raw cal).err = s.err := rfl
@[simp] theorem setSamples_seq (raw : Seven Word) (cal : Seven Float32Bits) (s : State) : (s.setSamples raw cal).seq = s.seq := rfl
@[simp] theorem setSamples_params (raw : Seven Word) (cal : Seven Float32Bits) (s : State) : (s.setSamples raw cal).params = s.params := rfl
@[simp] theorem setSamples_commands (raw : Seven Word) (cal : Seven Float32Bits) (s : State) : (s.setSamples raw cal).commands = s.commands := rfl
@[simp] theorem setSamples_results (raw : Seven Word) (cal : Seven Float32Bits) (s : State) : (s.setSamples raw cal).results = s.results := rfl
@[simp] theorem setSamples_answers (raw : Seven Word) (cal : Seven Float32Bits) (s : State) : (s.setSamples raw cal).answers = s.answers := rfl
@[simp] theorem setSamples_drawn (raw : Seven Word) (cal : Seven Float32Bits) (s : State) : (s.setSamples raw cal).drawn = s.drawn := rfl
@[simp] theorem setSamples_requests (raw : Seven Word) (cal : Seven Float32Bits) (s : State) : (s.setSamples raw cal).requests = s.requests := rfl

@[simp] theorem recordError_cfg (k : ErrorKind) (s : State) : (s.recordError k).cfg = s.cfg := rfl
@[simp] theorem recordError_raw (k : ErrorKind) (s : State) : (s.recordError k).raw = s.raw := rfl
@[simp] theorem recordError_cal (k : ErrorKind) (s : State) : (s.recordError k).cal = s.cal := rfl
@[simp] theorem recordError_err (k : ErrorKind) (s : State) : (s.recordError k).err = { kind := k, msg := Config.errMsg k } := rfl
@[simp] theorem recordError_seq (k : ErrorKind) (s : State) : (s.recordError k).seq = s.seq := rfl
@[simp] theorem recordError_params (k : ErrorKind) (s : State) : (s.recordError k).params = s.params := rfl
@[simp] theorem recordError_commands (k : ErrorKind) (s : State) : (s.recordError k).commands = s.commands := rfl
@[simp] theorem recordError_results (k : ErrorKind) (s : State) : (s.recordError k).results = s.results := rfl
@[simp] theorem recordError_answers (k : ErrorKind) (s : State) : (s.recordError k).answers = s.answers := rfl
@[simp] theorem recordError_drawn (k : ErrorKind) (s : State) : (s.recordError k).drawn = s.drawn := rfl
@[simp] theorem recordError_requests (k : ErrorKind) (s : State) : (s.recordError k).requests = s.requests := rfl

/-! ### The sequencer -/

@[simp] theorem running_cfg (i : Instr) (p : Position) (l : Locals) (s : State) : (s.running i p l).cfg = s.cfg := rfl
@[simp] theorem running_raw (i : Instr) (p : Position) (l : Locals) (s : State) : (s.running i p l).raw = s.raw := rfl
@[simp] theorem running_cal (i : Instr) (p : Position) (l : Locals) (s : State) : (s.running i p l).cal = s.cal := rfl
@[simp] theorem running_err (i : Instr) (p : Position) (l : Locals) (s : State) : (s.running i p l).err = s.err := rfl
@[simp] theorem running_seq (i : Instr) (p : Position) (l : Locals) (s : State) : (s.running i p l).seq = .run i p l := rfl
@[simp] theorem running_params (i : Instr) (p : Position) (l : Locals) (s : State) : (s.running i p l).params = s.params := rfl
@[simp] theorem running_commands (i : Instr) (p : Position) (l : Locals) (s : State) : (s.running i p l).commands = s.commands := rfl
@[simp] theorem running_results (i : Instr) (p : Position) (l : Locals) (s : State) : (s.running i p l).results = s.results := rfl
@[simp] theorem running_answers (i : Instr) (p : Position) (l : Locals) (s : State) : (s.running i p l).answers = s.answers := rfl
@[simp] theorem running_drawn (i : Instr) (p : Position) (l : Locals) (s : State) : (s.running i p l).drawn = s.drawn := rfl
@[simp] theorem running_requests (i : Instr) (p : Position) (l : Locals) (s : State) : (s.running i p l).requests = s.requests := rfl

/-! ### The end of a command -/

@[simp] theorem withResult_cfg (k : ErrorKind) (s : State) : (s.withResult k).cfg = s.cfg := rfl
@[simp] theorem withResult_raw (k : ErrorKind) (s : State) : (s.withResult k).raw = s.raw := rfl
@[simp] theorem withResult_cal (k : ErrorKind) (s : State) : (s.withResult k).cal = s.cal := rfl
@[simp] theorem withResult_err (k : ErrorKind) (s : State) : (s.withResult k).err = { kind := k, msg := Config.errMsg k } := rfl
@[simp] theorem withResult_seq (k : ErrorKind) (s : State) : (s.withResult k).seq = .idle := rfl
@[simp] theorem withResult_params (k : ErrorKind) (s : State) : (s.withResult k).params = s.params := rfl
@[simp] theorem withResult_commands (k : ErrorKind) (s : State) : (s.withResult k).commands = s.commands := rfl
@[simp] theorem withResult_results (k : ErrorKind) (s : State) : (s.withResult k).results = s.results ++ [k] := rfl
@[simp] theorem withResult_answers (k : ErrorKind) (s : State) : (s.withResult k).answers = s.answers := rfl
@[simp] theorem withResult_drawn (k : ErrorKind) (s : State) : (s.withResult k).drawn = s.drawn := rfl
@[simp] theorem withResult_requests (k : ErrorKind) (s : State) : (s.withResult k).requests = s.requests := rfl

/-! ### Transactions -/

@[simp] theorem afterRequests_cfg (rs : List Request) (s : State) : (s.afterRequests rs).cfg = s.cfg := rfl
@[simp] theorem afterRequests_raw (rs : List Request) (s : State) : (s.afterRequests rs).raw = s.raw := rfl
@[simp] theorem afterRequests_cal (rs : List Request) (s : State) : (s.afterRequests rs).cal = s.cal := rfl
@[simp] theorem afterRequests_err (rs : List Request) (s : State) : (s.afterRequests rs).err = s.err := rfl
@[simp] theorem afterRequests_seq (rs : List Request) (s : State) : (s.afterRequests rs).seq = s.seq := rfl
@[simp] theorem afterRequests_params (rs : List Request) (s : State) : (s.afterRequests rs).params = s.params := rfl
@[simp] theorem afterRequests_commands (rs : List Request) (s : State) : (s.afterRequests rs).commands = s.commands := rfl
@[simp] theorem afterRequests_results (rs : List Request) (s : State) : (s.afterRequests rs).results = s.results := rfl
@[simp] theorem afterRequests_answers (rs : List Request) (s : State) : (s.afterRequests rs).answers = s.answers.drop rs.length := rfl
@[simp] theorem afterRequests_drawn (rs : List Request) (s : State) : (s.afterRequests rs).drawn = s.drawn + rs.length := rfl
@[simp] theorem afterRequests_requests (rs : List Request) (s : State) : (s.afterRequests rs).requests = s.requests ++ rs := rfl

/-! ### The operations in the statements' forms -/

theorem start_eq_running (i : Instr) (s : State) : s.start i = s.running i ⟨0, 0⟩ Locals.empty := rfl

theorem endCommand_eq_withResult (k : ErrorKind) (s : State) : s.endCommand k = s.withResult k := rfl

theorem raise_eq_withResult (k : ErrorKind) (s : State) : s.raise k = s.withResult k := rfl

theorem issue_eq_afterRequests (r : Request) (s : State) : s.issue r = s.afterRequests [r] := by
  simp [issue, afterRequests]

theorem draw_status (s : State) : s.draw.status = s.statusAt 0 := by
  unfold draw statusAt
  cases s.answers <;> rfl

theorem drawBytes_eq_bytesAt (n : Nat) (s : State) : s.drawBytes n = s.bytesAt 0 n := by
  unfold drawBytes bytesAt draw
  cases s.answers <;> simp

theorem length_bytesAt (k n : Nat) (s : State) : (s.bytesAt k n).length = n := by simp [bytesAt]

/-- Answers are consumed in order: after the requests `rs` the next answer is the one after theirs. -/
@[simp] theorem statusAt_afterRequests (k : Nat) (rs : List Request) (s : State) :
    (s.afterRequests rs).statusAt k = s.statusAt (rs.length + k) := by
  simp [statusAt, Nat.add_assoc]

@[simp] theorem bytesAt_afterRequests (k n : Nat) (rs : List Request) (s : State) :
    (s.afterRequests rs).bytesAt k n = s.bytesAt (rs.length + k) n := by
  simp [bytesAt, Nat.add_assoc]

/-- What the transport answers depends on the answers to come and on the count alone. -/
theorem statusAt_congr {s t : State} (ha : t.answers = s.answers) (hd : t.drawn = s.drawn) (k : Nat) :
    t.statusAt k = s.statusAt k := by
  simp [statusAt, ha, hd]

theorem bytesAt_congr {s t : State} (ha : t.answers = s.answers) (hd : t.drawn = s.drawn) (k n : Nat) :
    t.bytesAt k n = s.bytesAt k n := by
  simp [bytesAt, ha, hd]

theorem afterRequests_nil (s : State) : s.afterRequests [] = s := by simp [afterRequests]

theorem afterRequests_append (rs rs' : List Request) (s : State) :
    (s.afterRequests rs).afterRequests rs' = s.afterRequests (rs ++ rs') := by
  simp [afterRequests, Nat.add_assoc]

@[simp] theorem running_running (i j : Instr) (p q : Position) (l m : Locals) (s : State) :
    (s.running i p l).running j q m = s.running j q m := rfl

@[simp] theorem withResult_running (k : ErrorKind) (i : Instr) (p : Position) (l : Locals) (s : State) :
    (s.running i p l).withResult k = s.withResult k := rfl

theorem afterRequests_running (rs : List Request) (i : Instr) (p : Position) (l : Locals) (s : State) :
    (s.running i p l).afterRequests rs = (s.afterRequests rs).running i p l := rfl

@[simp] theorem statusAt_running (k : Nat) (i : Instr) (p : Position) (l : Locals) (s : State) :
    (s.running i p l).statusAt k = s.statusAt k := rfl

@[simp] theorem bytesAt_running (k n : Nat) (i : Instr) (p : Position) (l : Locals) (s : State) :
    (s.running i p l).bytesAt k n = s.bytesAt k n := rfl

/-- A state that runs is itself with its sequencer named. -/
theorem eq_running {s : State} {i : Instr} {p : Position} {l : Locals} (h : s.seq = .run i p l) :
    s = s.running i p l := by
  cases s
  simp_all [running]

end State

end Sys2Proof.Machine
end

