-- ==== Sys2Proof/Laws/Ops.lean ====
section
/-! SUPPORT. One lemma for each shared operation, saying all it does at a running command. -/

namespace Sys2Proof.Machine

/-! ### The sequencer's accessors -/

@[simp] theorem Sequencer.isIdle_idle : Sequencer.idle.isIdle = true := rfl
@[simp] theorem Sequencer.isIdle_run (i : Instr) (p : Position) (l : Locals) : (Sequencer.run i p l).isIdle = false := rfl
@[simp] theorem Sequencer.step_run (i : Instr) (p : Position) (l : Locals) : (Sequencer.run i p l).step = p.step := rfl
@[simp] theorem Sequencer.initStep_run (i : Instr) (p : Position) (l : Locals) : (Sequencer.run i p l).initStep = p.initStep := rfl
@[simp] theorem Sequencer.locals_run (i : Instr) (p : Position) (l : Locals) : (Sequencer.run i p l).locals = l := rfl

theorem Sequencer.isIdle_iff (q : Sequencer) : q.isIdle = true ↔ q = .idle := by cases q <;> simp

/-! ### Status -/

@[simp] theorem failKind_ok : failKind .ok = none := rfl

theorem failKind_eq_none_iff (st : Status) : failKind st = none ↔ st = .ok := by cases st <;> simp [failKind]

/-- A transport failure is never NoError, NotConfigured or DeviceNotFound (R17). -/
theorem failKind_some {st : Status} {k : ErrorKind} (h : failKind st = some k) :
    st ≠ .ok ∧ k ≠ .noError ∧ k ≠ .notConfigured ∧ k ≠ .deviceNotFound := by
  cases st <;> simp_all [failKind] <;> subst h <;> simp

namespace State

variable (i : Instr) (p : Position) (l : Locals) (s : State)

@[simp] theorem goto_running (k : Nat) : (s.running i p l).goto k = s.running i { p with step := k } l := rfl

@[simp] theorem gotoInit_running (k : Nat) :
    (s.running i p l).gotoInit k = s.running i { initStep := k, step := 0 } Locals.empty := rfl

@[simp] theorem mapLocals_running (f : Locals → Locals) : (s.running i p l).mapLocals f = s.running i p (f l) := rfl

theorem requireAddress_running :
    (s.running i p l).requireAddress =
      if s.cfg.address = 0 then s.withResult .notConfigured else s.running i { p with step := 1 } l := rfl

/-- Where `succeed()` leads (R16, R172): INIT's next step after a sub-operation, else the command's end. -/
theorem succeed_running :
    (s.running i p l).succeed =
      if 2 ≤ p.initStep ∧ p.initStep ≤ 7 then
        (s.recordError .noError).running i { initStep := p.initStep + 1, step := 0 } Locals.empty
      else s.withResult .noError := rfl

theorem unlessFailed_eq (st : Status) (go : State → State) :
    s.unlessFailed st go =
      match failKind st with
      | some k => s.withResult k
      | none => go s := rfl

theorem memWriteStep_running (reg v : Byte) (next : Nat) :
    (s.running i p l).memWriteStep reg v next =
      match failKind (s.statusAt 0) with
      | some k => (s.afterRequests [writeOf s.cfg.address reg v]).withResult k
      | none => (s.afterRequests [writeOf s.cfg.address reg v]).running i { p with step := next } l := by
  unfold memWriteStep
  rw [draw_status, statusAt_running, issue_eq_afterRequests, unlessFailed_eq]
  rfl

theorem memReadStep_select (reg : Byte) (n : Nat) (go : List Byte → State → State) (h : l.pointerSet = false) :
    (s.running i p l).memReadStep reg n go =
      match failKind (s.statusAt 0) with
      | some k => (s.afterRequests [selectOf s.cfg.address reg]).withResult k
      | none => (s.afterRequests [selectOf s.cfg.address reg]).running i p { l with pointerSet := true } := by
  simp only [memReadStep, running_seq, Sequencer.locals_run, h, Bool.false_eq_true, if_false]
  rw [draw_status, statusAt_running, issue_eq_afterRequests, unlessFailed_eq]
  rfl

theorem memReadStep_fetch (reg : Byte) (n : Nat) (go : List Byte → State → State) (h : l.pointerSet = true) :
    (s.running i p l).memReadStep reg n go =
      match failKind (s.statusAt 0) with
      | some k => (s.afterRequests [readOf s.cfg.address n]).withResult k
      | none => go (s.bytesAt 0 n)
          ((s.afterRequests [readOf s.cfg.address n]).running i p { l with pointerSet := false }) := by
  simp only [memReadStep, running_seq, Sequencer.locals_run, h, if_true]
  rw [draw_status, statusAt_running, issue_eq_afterRequests, unlessFailed_eq, drawBytes_eq_bytesAt, bytesAt_running]
  rfl

end State

/-! ### Running until Idle -/

theorem untilIdle_of_idle {s : State} (n : Nat) (f : State → State) (h : s.seq = .idle) : untilIdle n f s = s := by
  cases n <;> simp [untilIdle, h]

@[simp] theorem untilIdle_withResult (n : Nat) (f : State → State) (k : ErrorKind) (s : State) :
    untilIdle n f (s.withResult k) = s.withResult k := untilIdle_of_idle n f rfl

theorem untilIdle_running (n : Nat) (f : State → State) (i : Instr) (p : Position) (l : Locals) (s : State) :
    untilIdle (n + 1) f (s.running i p l) = untilIdle n f (f (s.running i p l)) := by
  simp [untilIdle]

theorem untilIdle_add (m n : Nat) (f : State → State) (s : State) :
    untilIdle (m + n) f s = untilIdle n f (untilIdle m f s) := by
  induction m generalizing s with
  | zero => simp [untilIdle]
  | succ m ih =>
    rw [Nat.succ_add]
    by_cases h : s.seq = .idle
    · simp [untilIdle_of_idle _ _ h]
    · have : s.seq.isIdle = false := by rw [← Bool.not_eq_true, Sequencer.isIdle_iff]; exact h
      simp [untilIdle, this, ih]

theorem runCommand_idle {s : State} (i : Instr) (f : State → State) (h : s.seq = .idle) :
    runCommand i f s = .next (untilIdle stepBound f (s.running i ⟨0, 0⟩ Locals.empty)) := by
  simp [runCommand, h, State.start_eq_running]

/-- A meaning answers a next state only from an Idle block. -/
theorem runCommand_next {s t : State} {i : Instr} {f : State → State} (h : runCommand i f s = .next t) :
    s.seq = .idle ∧ t = untilIdle stepBound f (s.running i ⟨0, 0⟩ Locals.empty) := by
  unfold runCommand at h
  split at h
  · next hs => exact ⟨hs, by cases h; rfl⟩
  · cases h

end Sys2Proof.Machine
end

