-- ==== Sys2Proof/Laws/Commands.lean ====
section
/-! SUPPORT. What the body of each command does from its first step, run by any step function that agrees with
it there: by the command's own meaning, and by INIT at the step that runs it (spec/41_discovery_init.md R172). -/

namespace Sys2Proof.Machine

/-- `succeed()` at INIT's step `j`, or outside INIT for `j = 0`, whatever the temporaries are (R16, R172). -/
def State.succeedAt (i : Instr) (j : Nat) (s : State) : State :=
  if 2 ≤ j ∧ j ≤ 7 then (s.recordError .noError).running i { initStep := j + 1, step := 0 } Locals.empty
  else s.withResult .noError

theorem State.succeed_eq_succeedAt (i : Instr) (p : Position) (l : Locals) (s : State) :
    (s.running i p l).succeed = s.succeedAt i p.initStep := rfl

@[simp] theorem State.succeedAt_zero (i : Instr) (s : State) : s.succeedAt i 0 = s.withResult .noError := rfl

section Bodies

variable {f : State → State} {i : Instr} {j : Nat}

/-- A body that checks the address, writes one register and makes one update: SETACC, SETGYR, SETDIV, WAKE. -/
theorem singleWrite_body {reg v : Byte} {upd : State → State}
    (h0 : ∀ t l, f (State.running i ⟨j, 0⟩ l t) = (State.running i ⟨j, 0⟩ l t).requireAddress)
    (h1 : ∀ t l, f (State.running i ⟨j, 1⟩ l t) = (State.running i ⟨j, 1⟩ l t).memWriteStep reg v 2)
    (h2 : ∀ t l, f (State.running i ⟨j, 2⟩ l t) = ((upd t).running i ⟨j, 2⟩ l).succeed)
    (n : Nat) (l : Locals) (s : State) :
    untilIdle (n + 3) f (s.running i ⟨j, 0⟩ l) =
      if s.cfg.address = 0 then s.withResult .notConfigured
      else
        match failKind (s.statusAt 0) with
        | some k => (s.afterRequests [writeOf s.cfg.address reg v]).withResult k
        | none => untilIdle n f ((upd (s.afterRequests [writeOf s.cfg.address reg v])).succeedAt i j) := by
  rw [untilIdle_running, h0, State.requireAddress_running]
  split
  · simp
  · rw [untilIdle_running, h1, State.memWriteStep_running]
    cases failKind (s.statusAt 0) with
    | some k => simp
    | none => rw [untilIdle_running, h2, State.succeed_eq_succeedAt]

/-- ENINT's body, by the first of its four answers that is not `Ok` (R131). -/
theorem enint_body (hf : ∀ k t l, f (State.running i ⟨j, k⟩ l t) = enintStep (State.running i ⟨j, k⟩ l t))
    (n : Nat) (l : Locals) (hl : l.pointerSet = false) (s : State) (hs : s.cfg.address ≠ 0) :
    let requests := enintRequests s.cfg.address ((s.bytesAt 2 1).getD 0 0)
    ((∀ m, m < 4 → s.statusAt m = .ok) →
      untilIdle (n + 6) f (s.running i ⟨j, 0⟩ l) = untilIdle n f ((s.afterRequests requests).succeedAt i j)) ∧
    ∀ m k, m < 4 → (∀ m', m' < m → s.statusAt m' = .ok) → failKind (s.statusAt m) = some k →
      untilIdle (n + 6) f (s.running i ⟨j, 0⟩ l) = (s.afterRequests (requests.take (m + 1))).withResult k := by
  have run0 : untilIdle (n + 6) f (s.running i ⟨j, 0⟩ l) = untilIdle (n + 5) f (s.running i ⟨j, 1⟩ l) := by
    rw [untilIdle_running, hf]
    show untilIdle (n + 5) f ((s.running i ⟨j, 0⟩ l).requireAddress) = _
    rw [State.requireAddress_running, if_neg hs]
  have run1 : ∀ t : State, untilIdle (n + 5) f (t.running i ⟨j, 1⟩ l) =
      match failKind (t.statusAt 0) with
      | some k => (t.afterRequests [writeOf t.cfg.address 0x38 0x01]).withResult k
      | none => untilIdle (n + 4) f ((t.afterRequests [writeOf t.cfg.address 0x38 0x01]).running i ⟨j, 2⟩ l) := by
    intro t
    rw [untilIdle_running, hf]
    show untilIdle (n + 4) f ((t.running i ⟨j, 1⟩ l).memWriteStep 0x38 0x01 2) = _
    rw [State.memWriteStep_running]
    cases failKind (t.statusAt 0) <;> simp
  have run2 : ∀ t : State, untilIdle (n + 4) f (t.running i ⟨j, 2⟩ l) =
      match failKind (t.statusAt 0) with
      | some k => (t.afterRequests [selectOf t.cfg.address 0x37]).withResult k
      | none => untilIdle (n + 3) f
          ((t.afterRequests [selectOf t.cfg.address 0x37]).running i ⟨j, 2⟩ { l with pointerSet := true }) := by
    intro t
    rw [untilIdle_running, hf]
    show untilIdle (n + 3) f ((t.running i ⟨j, 2⟩ l).memReadStep 0x37 1 _) = _
    rw [State.memReadStep_select _ _ _ _ _ _ _ hl]
    cases failKind (t.statusAt 0) <;> simp
  have run3 : ∀ t : State, untilIdle (n + 3) f (t.running i ⟨j, 2⟩ { l with pointerSet := true }) =
      match failKind (t.statusAt 0) with
      | some k => (t.afterRequests [readOf t.cfg.address 1]).withResult k
      | none => untilIdle (n + 2) f ((t.afterRequests [readOf t.cfg.address 1]).running i ⟨j, 3⟩
          { l with v := (t.bytesAt 0 1).getD 0 0, pointerSet := false }) := by
    intro t
    rw [untilIdle_running, hf]
    show untilIdle (n + 2) f ((t.running i ⟨j, 2⟩ { l with pointerSet := true }).memReadStep 0x37 1 _) = _
    rw [State.memReadStep_fetch _ _ _ _ _ _ _ rfl]
    cases failKind (t.statusAt 0) <;> simp
  have run4 : ∀ (t : State) (l' : Locals), untilIdle (n + 2) f (t.running i ⟨j, 3⟩ l') =
      match failKind (t.statusAt 0) with
      | some k => (t.afterRequests [writeOf t.cfg.address 0x37 (l'.v ||| 0x10)]).withResult k
      | none => untilIdle n f ((t.afterRequests [writeOf t.cfg.address 0x37 (l'.v ||| 0x10)]).succeedAt i j) := by
    intro t l'
    rw [untilIdle_running, hf]
    show untilIdle (n + 1) f ((t.running i ⟨j, 3⟩ l').memWriteStep 0x37 (l'.v ||| 0x10) 4) = _
    rw [State.memWriteStep_running]
    cases failKind (t.statusAt 0) with
    | some k => simp
    | none =>
      show untilIdle (n + 1) f _ = _
      rw [untilIdle_running, hf]
      rfl
  refine ⟨fun hok => ?_, fun m k hm hok hk => ?_⟩
  · have h0 := hok 0 (by omega)
    have h1 := hok 1 (by omega)
    have h2 := hok 2 (by omega)
    have h3 := hok 3 (by omega)
    rw [run0, run1]
    simp [h0, run2, h1, run3, h2, run4, h3, State.afterRequests_append, enintRequests]
  · rw [run0, run1]
    match m, hm with
    | 0, _ => simp [hk, enintRequests]
    | 1, _ =>
      have h0 := hok 0 (by omega)
      simp [h0, run2, hk, State.afterRequests_append, enintRequests]
    | 2, _ =>
      have h0 := hok 0 (by omega)
      have h1 := hok 1 (by omega)
      simp [h0, run2, h1, run3, hk, State.afterRequests_append, enintRequests]
    | 3, _ =>
      have h0 := hok 0 (by omega)
      have h1 := hok 1 (by omega)
      have h2 := hok 2 (by omega)
      simp [h0, run2, h1, run3, h2, run4, hk, State.afterRequests_append, enintRequests]

/-- READ's body, by its two answers (R190). -/
theorem read_body (hf : ∀ k t l, f (State.running i ⟨j, k⟩ l t) = readStep (State.running i ⟨j, k⟩ l t))
    (n : Nat) (l : Locals) (hl : l.pointerSet = false) (s : State) (hs : s.cfg.address ≠ 0) :
    untilIdle (n + 4) f (s.running i ⟨j, 0⟩ l) =
      match failKind (s.statusAt 0) with
      | some k => (s.afterRequests [selectOf s.cfg.address 0x3B]).withResult k
      | none =>
        match failKind (s.statusAt 1) with
        | some k => (s.afterRequests [selectOf s.cfg.address 0x3B, readOf s.cfg.address 14]).withResult k
        | none => untilIdle n f (((s.afterRequests [selectOf s.cfg.address 0x3B, readOf s.cfg.address 14]).setSamples
            (burstWords (s.bytesAt 1 14))
            (calibrate s.params (burstWords (s.bytesAt 1 14)) s.cfg.accelRange s.cfg.gyroRange)).succeedAt i j) := by
  rw [untilIdle_running, hf]
  show untilIdle (n + 3) f ((s.running i ⟨j, 0⟩ l).requireAddress) = _
  rw [State.requireAddress_running, if_neg hs, untilIdle_running, hf]
  show untilIdle (n + 2) f ((s.running i ⟨j, 1⟩ l).memReadStep 0x3B 14 _) = _
  rw [State.memReadStep_select _ _ _ _ _ _ _ hl]
  cases failKind (s.statusAt 0) with
  | some k => simp
  | none =>
    show untilIdle (n + 2) f _ = _
    rw [untilIdle_running, hf]
    show untilIdle (n + 1) f (State.memReadStep 0x3B 14 _ _) = _
    rw [State.memReadStep_fetch _ _ _ _ _ _ _ rfl, State.statusAt_afterRequests]
    show untilIdle (n + 1) f (match failKind (s.statusAt 1) with | some k => _ | none => _) = _
    cases failKind (s.statusAt 1) with
    | some k => simp [State.afterRequests_append]
    | none =>
      rw [State.afterRequests_append, State.bytesAt_afterRequests]
      show untilIdle (n + 1) f (State.running i ⟨j, 2⟩ _ _) = _
      rw [untilIdle_running, hf]
      rfl

/-! ### The scan -/

theorem addressSpan_of_lt {a hi : Nat} (h : a < hi) :
    addressSpan a hi = BitVec.ofNat 8 a :: addressSpan (a + 1) hi := by
  have : hi - a = (hi - (a + 1)) + 1 := by omega
  simp [addressSpan, this, List.range'_succ]

theorem addressSpan_of_le {a hi : Nat} (h : hi ≤ a) : addressSpan a hi = [] := by
  have : hi - a = 0 := by omega
  simp [addressSpan, this]

theorem length_addressSpan (a hi : Nat) : (addressSpan a hi).length = hi - a := by simp [addressSpan]

variable {lo hi : Nat}

/-- A scan at an address it has not probed, up to the first acknowledgement. -/
theorem scan_acknowledged (hf : ∀ k t l, f (State.running i ⟨j, k⟩ l t) = scanStep lo hi (State.running i ⟨j, k⟩ l t))
    (hhi : hi ≤ 256) (n : Nat) (before : List Byte) :
    ∀ (a : Nat) (s : State) (l : Locals) (x : Byte) (after : List Byte),
      addressSpan a hi = before ++ x :: after → l.scanAddress = BitVec.ofNat 8 a → l.scanEnded = false →
      (∀ m, m < before.length → s.statusAt m ≠ .ok) → s.statusAt before.length = .ok →
      untilIdle (before.length + 1 + n) f (s.running i ⟨j, 1⟩ l) =
        untilIdle n f (((s.afterRequests ((before ++ [x]).map probeOf)).setAddress x).succeedAt i j) := by
  have probe : ∀ (m : Nat) (s : State) (l : Locals), l.scanEnded = false →
      untilIdle (m + 1) f (s.running i ⟨j, 1⟩ l) =
        untilIdle m f (if s.statusAt 0 = .ok then
          ((s.afterRequests [probeOf l.scanAddress]).setAddress l.scanAddress).succeedAt i j
        else (s.afterRequests [probeOf l.scanAddress]).running i ⟨j, 1⟩ (l.nextAddress hi)) := by
    intro m s l hl
    rw [untilIdle_running, hf]
    congr 1
    simp only [scanStep, State.running_seq, Sequencer.step_run, Sequencer.locals_run, hl, Bool.false_eq_true, if_false,
      State.draw_status, State.statusAt_running, State.issue_eq_afterRequests]
    rfl
  induction before with
  | nil =>
    intro a s l x after hspan ha hl _ hok
    have hlt : a < hi := by
      by_contra hge
      simp [addressSpan_of_le (by omega : hi ≤ a)] at hspan
    rw [addressSpan_of_lt hlt] at hspan
    obtain ⟨hx, -⟩ := List.cons.inj hspan
    have hok : s.statusAt 0 = .ok := hok
    rw [show ([] : List Byte).length + 1 + n = n + 1 by simp; omega, probe _ _ _ hl, if_pos hok, ha]
    subst hx
    rfl
  | cons b before ih =>
    intro a s l x after hspan ha hl hno hok
    have hlt : a < hi := by
      by_contra hge
      simp [addressSpan_of_le (by omega : hi ≤ a)] at hspan
    rw [addressSpan_of_lt hlt] at hspan
    obtain ⟨hb, hrest⟩ := List.cons.inj hspan
    have hlt' : a + 1 < hi := by
      by_contra hge
      simp [addressSpan_of_le (by omega : hi ≤ a + 1)] at hrest
    have hnext : l.nextAddress hi = { l with scanAddress := BitVec.ofNat 8 (a + 1) } := by
      have hta : (BitVec.ofNat 8 a).toNat = a := by simp; omega
      rw [Locals.nextAddress, ha, hta, if_pos hlt']
      simp [BitVec.ofNat_add]
    have hne : s.statusAt 0 ≠ .ok := hno 0 (by simp)
    rw [show (b :: before).length + 1 + n = (before.length + 1 + n) + 1 by simp; omega, probe _ _ _ hl, if_neg hne, hnext,
      ih (a + 1) (s.afterRequests [probeOf l.scanAddress]) { l with scanAddress := BitVec.ofNat 8 (a + 1) } x after hrest
        rfl hl (fun m hm => by
        rw [State.statusAt_afterRequests]
        have := hno (m + 1) (by simpa using hm)
        simpa [Nat.add_comm] using this)
      (by rw [State.statusAt_afterRequests]; simpa [Nat.add_comm] using hok),
      State.afterRequests_append, ha, hb]
    rfl

/-- A scan at an address it has not probed, with no acknowledgement to come. -/
theorem scan_exhausted (hf : ∀ k t l, f (State.running i ⟨j, k⟩ l t) = scanStep lo hi (State.running i ⟨j, k⟩ l t))
    (hhi : hi ≤ 256) (n : Nat) (m : Nat) :
    ∀ (a : Nat) (s : State) (l : Locals),
      hi - a = m → l.scanAddress = BitVec.ofNat 8 a → l.scanEnded = decide (hi ≤ a) →
      (∀ x, x < m → s.statusAt x ≠ .ok) →
      untilIdle (m + 2 + n) f (s.running i ⟨j, 1⟩ l) =
        (s.afterRequests ((addressSpan a hi).map probeOf)).withResult .deviceNotFound := by
  have finish : ∀ (s : State) (l : Locals), l.scanEnded = true →
      untilIdle (n + 2) f (s.running i ⟨j, 1⟩ l) = s.withResult .deviceNotFound := by
    intro s l hl
    rw [untilIdle_running, hf]
    have : scanStep lo hi (s.running i ⟨j, 1⟩ l) = s.running i ⟨j, 2⟩ l := by
      simp only [scanStep, State.running_seq, Sequencer.step_run, Sequencer.locals_run, hl, if_true]
      rfl
    rw [this, untilIdle_running, hf]
    exact untilIdle_withResult n f .deviceNotFound s
  induction m with
  | zero =>
    intro a s l hm ha hl _
    rw [addressSpan_of_le (by omega), List.map_nil, State.afterRequests_nil, show 0 + 2 + n = n + 2 by omega]
    exact finish s l (by rw [hl]; simp; omega)
  | succ m ih =>
    intro a s l hm ha hl hno
    have hlt : a < hi := by omega
    have hl : l.scanEnded = false := by rw [hl]; simp; omega
    have hta : (BitVec.ofNat 8 a).toNat = a := by simp; omega
    have step : f (s.running i ⟨j, 1⟩ l) = (s.afterRequests [probeOf l.scanAddress]).running i ⟨j, 1⟩ (l.nextAddress hi) := by
      rw [hf]
      simp only [scanStep, State.running_seq, Sequencer.step_run, Sequencer.locals_run, hl, Bool.false_eq_true, if_false,
        State.draw_status, State.statusAt_running, State.issue_eq_afterRequests]
      rw [if_neg (hno 0 (by omega))]
      rfl
    rw [show m + 1 + 2 + n = (m + 2 + n) + 1 by omega, untilIdle_running, step, addressSpan_of_lt hlt]
    by_cases hlast : a + 1 < hi
    · have hnext : l.nextAddress hi = { l with scanAddress := BitVec.ofNat 8 (a + 1) } := by
        rw [Locals.nextAddress, ha, hta, if_pos hlast]
        simp [BitVec.ofNat_add]
      rw [hnext, ih (a + 1) (s.afterRequests [probeOf l.scanAddress])
        { l with scanAddress := BitVec.ofNat 8 (a + 1) } (by omega) rfl (by show l.scanEnded = _; rw [hl]; simp; omega) (fun x hx => by
        rw [State.statusAt_afterRequests]
        have := hno (x + 1) (by omega)
        simpa [Nat.add_comm] using this), State.afterRequests_append, ha]
      rfl
    · have hm0 : m = 0 := by omega
      have hnext : l.nextAddress hi = { l with scanEnded := true } := by
        rw [Locals.nextAddress, ha, hta, if_neg hlast]
      subst hm0
      rw [hnext, show 0 + 2 + n = n + 2 by omega, finish _ _ rfl, addressSpan_of_le (by omega), ha]
      rfl

/-- The first step of a scan. -/
theorem scan_start (hf : ∀ k t l, f (State.running i ⟨j, k⟩ l t) = scanStep lo hi (State.running i ⟨j, k⟩ l t))
    (n : Nat) (l : Locals) (s : State) :
    untilIdle (n + 1) f (s.running i ⟨j, 0⟩ l) =
      untilIdle n f (s.running i ⟨j, 1⟩
        { l with scanAddress := BitVec.ofNat 8 lo, scanEnded := decide (hi ≤ lo) }) := by
  rw [untilIdle_running, hf]
  rfl

end Bodies

end Sys2Proof.Machine
end

