-- ==== Sys2Proof/Laws/PerInstr.lean ====
section
/-! SUPPORT. Every bit of a command word built from byte fields, and a family of statements about every
command as syntax, one lemma for each constructor. -/

namespace Sys2Proof

/-- The bits of a word built from byte fields (spec/30_encoding.md R90). -/
theorem RawCommand.getLsbD_toWord (r : RawCommand) (k : Nat) :
    r.toWord.getLsbD k =
      if k < 8 then r.op.getLsbD k
      else if k < 16 then r.a.getLsbD (k - 8)
      else if k < 24 then r.b.getLsbD (k - 16)
      else r.c.getLsbD (k - 24) := by
  have h : r.toWord.getLsbD k = BitVec.getLsbD (w := 8 + 8 + 8 + 8) (r.c ++ r.b ++ r.a ++ r.op) k := rfl
  rw [h]
  simp only [BitVec.getLsbD_append]
  by_cases h1 : k < 8
  · rw [if_pos h1, if_pos h1]
  by_cases h2 : k < 16
  · rw [if_neg h1, if_neg h1, if_pos h2, if_pos (by omega)]
  have h2' : ¬ k - 8 < 8 := by omega
  by_cases h3 : k < 24
  · rw [if_neg h1, if_neg h1, if_neg h2, if_neg h2', if_pos h3, if_pos (by omega), (by omega : k - 8 - 8 = k - 16)]
  · rw [if_neg h1, if_neg h1, if_neg h2, if_neg h2', if_neg h3, if_neg (by omega), (by omega : k - 8 - 8 - 8 = k - 24)]

/-- The byte fields of a word built from byte fields. -/
theorem RawCommand.ofWord_toWord (r : RawCommand) : RawCommand.ofWord r.toWord = r := by
  obtain ⟨op, a, b, c⟩ := r
  simp only [RawCommand.ofWord, RawCommand.mk.injEq]
  refine ⟨?_, ?_, ?_, ?_⟩ <;> apply BitVec.eq_of_getLsbD_eq <;> intro k hk <;>
    rw [BitVec.getLsbD_extractLsb', RawCommand.getLsbD_toWord] <;> interval_cases k <;> rfl

/-- Two words with the same byte fields are the same word. -/
theorem RawCommand.toWord_ofWord (w : CommandWord) : (RawCommand.ofWord w).toWord = w := by
  apply BitVec.eq_of_getLsbD_eq
  intro k hk
  rw [RawCommand.getLsbD_toWord]
  simp only [RawCommand.ofWord, BitVec.getLsbD_extractLsb']
  interval_cases k <;> rfl

namespace Laws.EncodedWord

/-- The word of a command passes the well-formedness check of the operand table (spec/30_encoding.md R91)
and is selected by the command's row of spec/opcode_table.json (R103). -/
def Statement (i : Instr) : Prop :=
  wordWellFormed (encode i) = true ∧ encode i &&& i.matchMask.2 = i.matchMask.1

theorem setacc (acc : AccelRange) : Statement (.setacc acc) := by
  cases acc <;> exact ⟨rfl, rfl⟩

theorem setgyr (gyr : GyroRange) : Statement (.setgyr gyr) := by
  cases gyr <;> exact ⟨rfl, rfl⟩

theorem setdiv (d : Byte) : Statement (.setdiv d) := by
  constructor
  · rw [wordWellFormed, encode, RawCommand.ofWord_toWord]; rfl
  · apply BitVec.eq_of_getLsbD_eq
    intro k hk
    rw [BitVec.getLsbD_and, encode, RawCommand.getLsbD_toWord]
    interval_cases k <;> simp [Instr.fields, Instr.matchMask]

theorem wake : Statement .wake := ⟨rfl, rfl⟩

theorem enint : Statement .enint := ⟨rfl, rfl⟩

theorem find (first last : Byte) : Statement (.find first last) := by
  constructor
  · rw [wordWellFormed, encode, RawCommand.ofWord_toWord]; rfl
  · apply BitVec.eq_of_getLsbD_eq
    intro k hk
    rw [BitVec.getLsbD_and, encode, RawCommand.getLsbD_toWord]
    interval_cases k <;> simp [Instr.fields, Instr.matchMask]

theorem init (acc : AccelRange) (gyr : GyroRange) (d : Byte) : Statement (.init acc gyr d) := by
  constructor
  · rw [wordWellFormed, encode, RawCommand.ofWord_toWord]
    cases acc <;> cases gyr <;> rfl
  · apply BitVec.eq_of_getLsbD_eq
    intro k hk
    rw [BitVec.getLsbD_and, encode, RawCommand.getLsbD_toWord]
    interval_cases k <;> simp [Instr.fields, Instr.matchMask, rangeByte]

theorem read : Statement .read := ⟨rfl, rfl⟩

end Laws.EncodedWord

end Sys2Proof
end

