-- ==== Sys2Proof/Laws/Sequencer.lean ====
section
/-! SUPPORT. All that one step of the block can do (spec/10_state.md R33), said once; that a running command has
ever fewer steps left, at most 276 (spec/70_reset_and_hazards.md R303); and induction over a command's steps. -/

namespace Sys2Proof.Machine

/-! ### How many steps a running command has left -/

/-- Steps left in ENINT's body. -/
def enintLeft (k : Nat) (l : Locals) : Nat :=
  match k with
  | 0 => 6
  | 1 => 5
  | 2 => if l.pointerSet then 3 else 4
  | 3 => 2
  | _ => 1

/-- Steps left in READ's body. -/
def readLeft (k : Nat) (l : Locals) : Nat :=
  match k with
  | 0 => 4
  | 1 => if l.pointerSet then 2 else 3
  | _ => 1

/-- A bound on the steps left in a scan's body and in what may follow it in INIT. -/
def scanLeft (k : Nat) (l : Locals) : Nat :=
  match k with
  | 0 => 274
  | 1 => if l.scanEnded then 2 else (254 - l.scanAddress.toNat) + 20
  | _ => 1

/-- A bound on the steps left of a running command. -/
def stepsLeft (i : Instr) (p : Position) (l : Locals) : Nat :=
  match i with
  | .setacc _ | .setgyr _ | .setdiv _ | .wake => 3 - p.step
  | .enint => enintLeft p.step l
  | .find _ _ => scanLeft p.step l
  | .read => readLeft p.step l
  | .init _ _ _ =>
    match p.initStep with
    | 0 => 276
    | 1 => 275
    | 2 => scanLeft p.step l
    | 3 => (3 - p.step) + 16
    | 4 => (3 - p.step) + 13
    | 5 => (3 - p.step) + 10
    | 6 => (3 - p.step) + 7
    | 7 => enintLeft p.step l + 1
    | _ => 1

/-! ### What one step does -/

/-- The update a register body makes as it succeeds, at position `p` of command `i`. -/
inductive BodyUpdate (i : Instr) (p : Position) (l : Locals) (s : State) : State → Prop where
  | accelRange (acc : AccelRange) (h : i = .setacc acc ∨ ∃ gyr d, i = .init acc gyr d) :
      BodyUpdate i p l s (s.setAccelRange acc)
  | gyroRange (gyr : GyroRange) (h : i = .setgyr gyr ∨ ∃ acc d, i = .init acc gyr d) :
      BodyUpdate i p l s (s.setGyroRange gyr)
  | divider (d : Byte) (h : i = .setdiv d ∨ ∃ acc gyr, i = .init acc gyr d) :
      BodyUpdate i p l s (s.setDivider d)
  | nothing (h : i = .wake ∨ i = .enint ∨ ∃ acc gyr d, i = .init acc gyr d) : BodyUpdate i p l s s
  | samples (h : i = .read) :
      BodyUpdate i p l s (s.setSamples (burstWords l.b)
        (calibrate s.params (burstWords l.b) s.cfg.accelRange s.cfg.gyroRange))

/-- All that one step of command `i`, at position `p` with temporaries `l`, can make of the state `s`. -/
inductive BlockEffect (i : Instr) (p : Position) (l : Locals) (s : State) : State → Prop where
  /-- There is no such step. -/
  | none (h : ¬ Position.legal i p) : BlockEffect i p l s (s.running i p l)
  /-- Step 0 of a register body, the address set. -/
  | addressed (hb : Position.inRegisterBody i p) (h0 : p.step = 0) (ha : s.cfg.address ≠ 0)
      (hp : Position.legal i { p with step := 1 }) (hm : stepsLeft i { p with step := 1 } l < stepsLeft i p l) :
      BlockEffect i p l s (s.running i { p with step := 1 } l)
  /-- Step 0 of a register body, the address unset. -/
  | notConfigured (hb : Position.inRegisterBody i p) (h0 : p.step = 0) (ha : s.cfg.address = 0) :
      BlockEffect i p l s (s.withResult .notConfigured)
  /-- A register transaction that answers `Ok`. -/
  | answered (r : Request) (k : Nat) (m : Locals) (hb : Position.inRegisterBody i p) (h1 : 1 ≤ p.step)
      (hr : s.cfg.address ≠ 0 → r.meetsWireContract = true) (hs : s.statusAt 0 = .ok) (hk : 1 ≤ k)
      (hp : Position.legal i { p with step := k }) (hm : stepsLeft i { p with step := k } m < stepsLeft i p l) :
      BlockEffect i p l s ((s.afterRequests [r]).running i { p with step := k } m)
  /-- A register transaction that does not. -/
  | failed (r : Request) (e : ErrorKind) (hb : Position.inRegisterBody i p) (h1 : 1 ≤ p.step)
      (hr : s.cfg.address ≠ 0 → r.meetsWireContract = true) (hs : failKind (s.statusAt 0) = some e) :
      BlockEffect i p l s ((s.afterRequests [r]).withResult e)
  /-- The last step of a register body. -/
  | updated (t : State) (hb : Position.inRegisterBody i p) (h1 : 1 ≤ p.step) (ht : BodyUpdate i p l s t)
      (hp : 2 ≤ p.initStep ∧ p.initStep ≤ 7 → Position.legal i ⟨p.initStep + 1, 0⟩ ∧
        stepsLeft i ⟨p.initStep + 1, 0⟩ Locals.empty < stepsLeft i p l) :
      BlockEffect i p l s (t.succeedAt i p.initStep)
  /-- Step 0 of a scan. -/
  | scanStarted (a : Byte) (e : Bool) (hb : Position.inScan i p) (ha : a ≠ 0)
      (hp : Position.legal i { p with step := 1 })
      (hm : stepsLeft i { p with step := 1 } { l with scanAddress := a, scanEnded := e } < stepsLeft i p l) :
      BlockEffect i p l s (s.running i { p with step := 1 } { l with scanAddress := a, scanEnded := e })
  /-- A scan that has used up its list. -/
  | scanEnded (hb : Position.inScan i p) (h1 : p.step = 1) (he : l.scanEnded = true)
      (hp : Position.legal i { p with step := 2 }) (hm : stepsLeft i { p with step := 2 } l < stepsLeft i p l) :
      BlockEffect i p l s (s.running i { p with step := 2 } l)
  /-- A probe that is acknowledged. -/
  | found (hb : Position.inScan i p) (h1 : p.step = 1) (he : l.scanEnded = false) (hs : s.statusAt 0 = .ok)
      (hp : 2 ≤ p.initStep ∧ p.initStep ≤ 7 → Position.legal i ⟨p.initStep + 1, 0⟩ ∧
        stepsLeft i ⟨p.initStep + 1, 0⟩ Locals.empty < stepsLeft i p l) :
      BlockEffect i p l s (((s.afterRequests [probeOf l.scanAddress]).setAddress l.scanAddress).succeedAt i p.initStep)
  /-- A probe that is not. -/
  | notAcknowledged (hi : Nat) (hb : Position.inScan i p) (h1 : p.step = 1) (he : l.scanEnded = false)
      (hs : s.statusAt 0 ≠ .ok) (hhi : hi ≤ 255) (hp : Position.legal i p)
      (hm : stepsLeft i p (l.nextAddress hi) < stepsLeft i p l) :
      BlockEffect i p l s ((s.afterRequests [probeOf l.scanAddress]).running i p (l.nextAddress hi))
  /-- Step 2 of a scan. -/
  | notFound (hb : Position.inScan i p) : BlockEffect i p l s (s.withResult .deviceNotFound)
  /-- INIT moves to its step 1. -/
  | initEntered (hi : Instr.isInit i = true) (hm : stepsLeft i ⟨1, 0⟩ Locals.empty < stepsLeft i p l) :
      BlockEffect i p l s (s.running i ⟨1, 0⟩ Locals.empty)
  /-- INIT's step 1. -/
  | initCleared (hi : Instr.isInit i = true) (hm : stepsLeft i ⟨2, 0⟩ Locals.empty < stepsLeft i p l) :
      BlockEffect i p l s (s.clearSamples.running i ⟨2, 0⟩ Locals.empty)
  /-- INIT's step 8. -/
  | initDone (hi : Instr.isInit i = true) : BlockEffect i p l s (s.withResult .noError)

theorem scanAddress_nextAddress_ne_zero {hi : Nat} {l : Locals} (hhi : hi ≤ 255)
    (he : (l.nextAddress hi).scanEnded = false) (_h : l.scanEnded = false) : (l.nextAddress hi).scanAddress ≠ 0 := by
  unfold Locals.nextAddress at *
  split at he
  · next hlt =>
    rw [if_pos hlt]
    intro h0
    have := congrArg BitVec.toNat h0
    simp at this
    omega
  · simp at he

/-! ### The requests the commands issue meet the wire contract -/

theorem writeOf_meetsWireContract {a reg v : Byte} (h : writeAllowed reg v = true) (ha : a ≠ 0) :
    (writeOf a reg v).meetsWireContract = true := by
  simpa [Request.meetsWireContract, writeOf, Config.timeout, h] using ha

theorem selectOf_meetsWireContract {a reg : Byte} (h : reg = 0x37 ∨ reg = 0x3B) (ha : a ≠ 0) :
    (selectOf a reg).meetsWireContract = true := by
  rcases h with rfl | rfl <;> simpa [Request.meetsWireContract, selectOf, Config.timeout] using ha

theorem readOf_meetsWireContract {a : Byte} {n : Nat} (h : n = 1 ∨ n = 14) (ha : a ≠ 0) :
    (readOf a n).meetsWireContract = true := by
  rcases h with rfl | rfl <;> simpa [Request.meetsWireContract, readOf, Config.timeout] using ha

theorem probeOf_meetsWireContract {a : Byte} (ha : a ≠ 0) : (probeOf a).meetsWireContract = true := by
  simpa [Request.meetsWireContract, probeOf, Config.timeout] using ha

theorem writeAllowed_range (c : BitVec 2) :
    writeAllowed 0x1C (encRange c) = true ∧ writeAllowed 0x1B (encRange c) = true := by
  revert c; decide

theorem writeAllowed_latch : ∀ v : Byte, writeAllowed 0x37 (v ||| 0x10) = true := by decide

/-! ### The effect of each body's steps -/

section Effects

variable {i : Instr} {j : Nat} {l : Locals} {s : State}

theorem requireAddress_effect (hb : Position.inRegisterBody i ⟨j, 0⟩) (hp : Position.legal i ⟨j, 1⟩)
    (hm : stepsLeft i ⟨j, 1⟩ l < stepsLeft i ⟨j, 0⟩ l) :
    BlockEffect i ⟨j, 0⟩ l s ((s.running i ⟨j, 0⟩ l).requireAddress) := by
  rw [State.requireAddress_running]
  split
  · next h => exact .notConfigured hb rfl h
  · next h => exact .addressed hb rfl h hp hm

theorem memWriteStep_effect {k next : Nat} {reg v : Byte} (hb : Position.inRegisterBody i ⟨j, k⟩) (h1 : 1 ≤ k)
    (hr : writeAllowed reg v = true) (hk : 1 ≤ next)
    (hp : Position.legal i ⟨j, next⟩) (hm : stepsLeft i ⟨j, next⟩ l < stepsLeft i ⟨j, k⟩ l) :
    BlockEffect i ⟨j, k⟩ l s ((s.running i ⟨j, k⟩ l).memWriteStep reg v next) := by
  rw [State.memWriteStep_running]
  cases h : failKind (s.statusAt 0) with
  | some e => exact .failed _ e hb h1 (writeOf_meetsWireContract hr) h
  | none => exact .answered _ next l hb h1 (writeOf_meetsWireContract hr) ((failKind_eq_none_iff _).1 h) hk hp hm

theorem memReadStep_effect {k n next : Nat} {reg : Byte} {upd : List Byte → Locals → Locals}
    (hb : Position.inRegisterBody i ⟨j, k⟩) (h1 : 1 ≤ k) (hreg : reg = 0x37 ∨ reg = 0x3B) (hn : n = 1 ∨ n = 14)
    (hk : 1 ≤ next) (hp : Position.legal i ⟨j, k⟩) (hp' : Position.legal i ⟨j, next⟩)
    (hm : l.pointerSet = false → stepsLeft i ⟨j, k⟩ { l with pointerSet := true } < stepsLeft i ⟨j, k⟩ l)
    (hm' : l.pointerSet = true → ∀ b, stepsLeft i ⟨j, next⟩ (upd b { l with pointerSet := false }) < stepsLeft i ⟨j, k⟩ l) :
    BlockEffect i ⟨j, k⟩ l s
      ((s.running i ⟨j, k⟩ l).memReadStep reg n fun b t => (t.mapLocals (upd b)).goto next) := by
  cases hl : l.pointerSet with
  | false =>
    rw [State.memReadStep_select _ _ _ _ _ _ _ hl]
    cases h : failKind (s.statusAt 0) with
    | some e => exact .failed _ e hb h1 (selectOf_meetsWireContract hreg) h
    | none =>
      exact .answered _ k _ hb h1 (selectOf_meetsWireContract hreg) ((failKind_eq_none_iff _).1 h) h1 hp (hm hl)
  | true =>
    rw [State.memReadStep_fetch _ _ _ _ _ _ _ hl]
    cases h : failKind (s.statusAt 0) with
    | some e => exact .failed _ e hb h1 (readOf_meetsWireContract hn) h
    | none =>
      exact .answered _ next _ hb h1 (readOf_meetsWireContract hn) ((failKind_eq_none_iff _).1 h) hk hp' (hm' hl _)

/-- SETACC's, SETGYR's, SETDIV's and WAKE's steps, on their own (`rest = 0`) or in INIT. -/
theorem singleWrite_effect {f : State → State} {reg v : Byte} {upd : State → State} {rest : Nat}
    (h0 : f (State.running i ⟨j, 0⟩ l s) = (State.running i ⟨j, 0⟩ l s).requireAddress)
    (h1 : f (State.running i ⟨j, 1⟩ l s) = (State.running i ⟨j, 1⟩ l s).memWriteStep reg v 2)
    (h2 : f (State.running i ⟨j, 2⟩ l s) = ((upd s).running i ⟨j, 2⟩ l).succeed)
    (h3 : ∀ k, f (State.running i ⟨j, k + 3⟩ l s) = State.running i ⟨j, k + 3⟩ l s)
    (hr : writeAllowed reg v = true) (hb : ∀ k, Position.inRegisterBody i ⟨j, k⟩)
    (hu : BodyUpdate i ⟨j, 2⟩ l s (upd s)) (hp : ∀ k, Position.legal i ⟨j, k⟩ ↔ k ≤ 2)
    (hm : ∀ k, stepsLeft i ⟨j, k⟩ l = 3 - k + rest)
    (hn : 2 ≤ j ∧ j ≤ 7 → Position.legal i ⟨j + 1, 0⟩ ∧ stepsLeft i ⟨j + 1, 0⟩ Locals.empty ≤ rest)
    (k : Nat) : BlockEffect i ⟨j, k⟩ l s (f (s.running i ⟨j, k⟩ l)) := by
  match k with
  | 0 =>
    rw [h0]
    exact requireAddress_effect (hb 0) ((hp 1).2 (by omega)) (by rw [hm, hm]; omega)
  | 1 =>
    rw [h1]
    exact memWriteStep_effect (hb 1) (by omega) hr (by omega) ((hp 2).2 (by omega)) (by rw [hm, hm]; omega)
  | 2 =>
    rw [h2, State.succeed_eq_succeedAt]
    exact .updated _ (hb 2) (by simp) hu fun hj => ⟨(hn hj).1, lt_of_le_of_lt (hn hj).2 (by rw [hm]; omega)⟩
  | k + 3 =>
    rw [h3]
    exact .none (by rw [hp]; omega)

/-- ENINT's steps, on their own (`rest = 0`) or in INIT. -/
theorem enint_effect {rest : Nat} (hb : ∀ k, Position.inRegisterBody i ⟨j, k⟩)
    (hu : i = .enint ∨ ∃ acc gyr d, i = .init acc gyr d) (hp : ∀ k, Position.legal i ⟨j, k⟩ ↔ k ≤ 4)
    (hm : ∀ k l, stepsLeft i ⟨j, k⟩ l = enintLeft k l + rest)
    (hn : 2 ≤ j ∧ j ≤ 7 → Position.legal i ⟨j + 1, 0⟩ ∧ stepsLeft i ⟨j + 1, 0⟩ Locals.empty ≤ rest)
    (k : Nat) : BlockEffect i ⟨j, k⟩ l s (enintStep (s.running i ⟨j, k⟩ l)) := by
  match k with
  | 0 => exact requireAddress_effect (hb 0) ((hp 1).2 (by omega)) (by rw [hm, hm]; simp [enintLeft])
  | 1 =>
    refine memWriteStep_effect (hb 1) (by omega) (by decide) (by omega) ((hp 2).2 (by omega)) ?_
    rw [hm, hm]
    simp only [enintLeft]
    split <;> omega
  | 2 =>
    refine memReadStep_effect (upd := fun b l => { l with v := b.getD 0 0 }) (next := 3) (hb 2) (by omega) (.inl rfl)
      (.inl rfl) (by omega) ((hp 2).2 (by omega)) ((hp 3).2 (by omega)) (fun h => ?_) (fun h b => ?_)
    · rw [hm, hm]
      simp [enintLeft, h]
    · rw [hm, hm]
      simp [enintLeft, h]
  | 3 =>
    exact memWriteStep_effect (hb 3) (by omega) (writeAllowed_latch l.v) (by omega) ((hp 4).2 (by omega))
      (by rw [hm, hm]; simp [enintLeft])
  | 4 =>
    show BlockEffect i ⟨j, 4⟩ l s (s.succeedAt i j)
    exact .updated s (hb 4) (by simp) (.nothing (hu.elim (fun h => .inr (.inl h)) fun h => .inr (.inr h)))
      fun hj => ⟨(hn hj).1, lt_of_le_of_lt (hn hj).2 (by rw [hm]; simp only [enintLeft]; omega)⟩
  | k + 5 => exact .none (by rw [hp]; omega)

/-- READ's steps. -/
theorem read_effect (k : Nat) : BlockEffect .read ⟨0, k⟩ l s (readStep (s.running .read ⟨0, k⟩ l)) := by
  have hp : ∀ k, Position.legal .read ⟨0, k⟩ ↔ k ≤ 2 := fun k => by simp [Position.legal, lastStep, Instr.isInit]
  have hb : ∀ k, Position.inRegisterBody .read ⟨0, k⟩ := fun _ => trivial
  match k with
  | 0 =>
    refine requireAddress_effect (hb 0) ((hp 1).2 (by omega)) ?_
    simp only [stepsLeft, readLeft]
    split <;> omega
  | 1 =>
    refine memReadStep_effect (upd := fun b l => { l with b := b }) (next := 2) (hb 1) (by omega) (.inr rfl) (.inr rfl)
      (by omega) ((hp 1).2 (by omega)) ((hp 2).2 (by omega)) (fun h => ?_) (fun h b => ?_)
    · simp [stepsLeft, readLeft, h]
    · simp [stepsLeft, readLeft, h]
  | 2 =>
    show BlockEffect .read ⟨0, 2⟩ l s (State.succeedAt .read 0 (s.setSamples (burstWords l.b)
      (calibrate s.params (burstWords l.b) s.cfg.accelRange s.cfg.gyroRange)))
    exact .updated _ (hb 2) (by simp) (.samples rfl) fun hj => absurd hj.1 (by simp)
  | k + 3 => exact .none (by rw [hp]; omega)

theorem scanLeft_nextAddress {hi : Nat} (hhi : hi ≤ 255) (he : l.scanEnded = false) :
    scanLeft 1 (l.nextAddress hi) < scanLeft 1 l := by
  unfold Locals.nextAddress
  split
  · next hlt =>
    have : (l.scanAddress + 1).toNat = l.scanAddress.toNat + 1 := by
      simp [BitVec.toNat_add]
      omega
    simp only [scanLeft, he, Bool.false_eq_true, if_false, this]
    omega
  · simp only [scanLeft, he, Bool.false_eq_true, if_false, if_true]
    omega

/-- A scan's steps, FIND's or INIT's. -/
theorem scan_effect {lo hi : Nat} (hlo : 1 ≤ lo) (hlo' : lo ≤ 255) (hhi : hi ≤ 255) (hb : ∀ k, Position.inScan i ⟨j, k⟩)
    (hp : ∀ k, Position.legal i ⟨j, k⟩ ↔ k ≤ 2) (hm : ∀ k l, stepsLeft i ⟨j, k⟩ l = scanLeft k l)
    (hn : 2 ≤ j ∧ j ≤ 7 → Position.legal i ⟨j + 1, 0⟩ ∧ stepsLeft i ⟨j + 1, 0⟩ Locals.empty ≤ 19)
    (k : Nat) : BlockEffect i ⟨j, k⟩ l s (scanStep lo hi (s.running i ⟨j, k⟩ l)) := by
  match k with
  | 0 =>
    have ha : (BitVec.ofNat 8 lo : Byte).toNat = lo := by simp; omega
    refine .scanStarted (BitVec.ofNat 8 lo) (decide (hi ≤ lo)) (hb 0) (fun h => ?_) ((hp 1).2 (by omega)) ?_
    · have := congrArg BitVec.toNat h
      rw [ha] at this
      simp at this
      omega
    · rw [hm, hm]
      simp only [scanLeft, ha]
      split <;> omega
  | 1 =>
    cases he : l.scanEnded with
    | true =>
      have : scanStep lo hi (s.running i ⟨j, 1⟩ l) = s.running i ⟨j, 2⟩ l := by
        simp only [scanStep, State.running_seq, Sequencer.step_run, Sequencer.locals_run, he, if_true]
        rfl
      rw [this]
      exact .scanEnded (hb 1) rfl he ((hp 2).2 (by omega)) (by rw [hm, hm]; simp [scanLeft, he])
    | false =>
      have : scanStep lo hi (s.running i ⟨j, 1⟩ l) =
          if s.statusAt 0 = .ok then ((s.afterRequests [probeOf l.scanAddress]).setAddress l.scanAddress).succeedAt i j
          else (s.afterRequests [probeOf l.scanAddress]).running i ⟨j, 1⟩ (l.nextAddress hi) := by
        simp only [scanStep, State.running_seq, Sequencer.step_run, Sequencer.locals_run, he, Bool.false_eq_true,
          if_false, State.draw_status, State.statusAt_running, State.issue_eq_afterRequests]
        rfl
      rw [this]
      split
      · next hs =>
        refine .found (hb 1) rfl he hs fun hj => ⟨(hn hj).1, ?_⟩
        have := (hn hj).2
        rw [hm 1]
        simp only [scanLeft, he, Bool.false_eq_true, if_false]
        omega
      · next hs =>
        exact .notAcknowledged hi (hb 1) rfl he hs hhi ((hp 1).2 (by omega))
          (by rw [hm, hm]; exact scanLeft_nextAddress hhi he)
  | 2 => exact .notFound (hb 2)
  | k + 3 => exact .none (by rw [hp]; omega)

end Effects

theorem scanBounds_le (mode : ScanMode) (first last : Byte) :
    1 ≤ (scanBounds mode first last).1 ∧ (scanBounds mode first last).1 ≤ 255 ∧ (scanBounds mode first last).2 ≤ 255 := by
  have := first.isLt
  have := last.isLt
  cases mode <;> simp only [scanBounds] <;> omega

/-- INIT's steps. -/
theorem init_effect (acc : AccelRange) (gyr : GyroRange) (d : Byte) (j k : Nat) (l : Locals) (s : State) :
    BlockEffect (.init acc gyr d) ⟨j, k⟩ l s (initStep acc gyr d (s.running (.init acc gyr d) ⟨j, k⟩ l)) := by
  have some3 : ∃ a g b, Instr.init acc gyr d = .init a g b := ⟨acc, gyr, d, rfl⟩
  match j with
  | 0 => exact .initEntered rfl (by simp [stepsLeft])
  | 1 => exact .initCleared rfl (by simp [stepsLeft, scanLeft])
  | 2 =>
    exact scan_effect (i := .init acc gyr d) (j := 2) (by decide) (by decide) (by decide) (fun _ => rfl)
      (fun k => by simp [Position.legal, lastStep, Instr.isInit]) (fun _ _ => rfl)
      (fun _ => ⟨by simp [Position.legal, Instr.isInit], by simp [stepsLeft]⟩) k
  | 3 =>
    exact singleWrite_effect (i := .init acc gyr d) (j := 3) (f := wakeStep) (upd := id) (reg := 0x6B) (v := 0x00) (rest := 16) rfl rfl rfl (fun _ => rfl)
      (by decide) (fun _ => by simp [Position.inRegisterBody]) (.nothing (.inr (.inr some3)))
      (fun k => by simp [Position.legal, lastStep, Instr.isInit]) (fun _ => rfl)
      (fun _ => ⟨by simp [Position.legal, Instr.isInit], by simp [stepsLeft]⟩) k
  | 4 =>
    exact singleWrite_effect (i := .init acc gyr d) (j := 4) (f := setaccStep acc) (upd := State.setAccelRange acc) (reg := 0x1C) (v := encRange acc.code)
      (rest := 13) rfl rfl rfl (fun _ => rfl)
      (writeAllowed_range _).1 (fun _ => by simp [Position.inRegisterBody]) (.accelRange acc (.inr ⟨gyr, d, rfl⟩))
      (fun k => by simp [Position.legal, lastStep, Instr.isInit]) (fun _ => rfl)
      (fun _ => ⟨by simp [Position.legal, Instr.isInit], by simp [stepsLeft]⟩) k
  | 5 =>
    exact singleWrite_effect (i := .init acc gyr d) (j := 5) (f := setgyrStep gyr) (upd := State.setGyroRange gyr) (reg := 0x1B) (v := encRange gyr.code)
      (rest := 10) rfl rfl rfl (fun _ => rfl)
      (writeAllowed_range _).2 (fun _ => by simp [Position.inRegisterBody]) (.gyroRange gyr (.inr ⟨acc, d, rfl⟩))
      (fun k => by simp [Position.legal, lastStep, Instr.isInit]) (fun _ => rfl)
      (fun _ => ⟨by simp [Position.legal, Instr.isInit], by simp [stepsLeft]⟩) k
  | 6 =>
    exact singleWrite_effect (i := .init acc gyr d) (j := 6) (f := setdivStep d) (upd := State.setDivider d) (reg := 0x19) (v := d)
      (rest := 7) rfl rfl rfl (fun _ => rfl)
      rfl (fun _ => by simp [Position.inRegisterBody]) (.divider d (.inr ⟨acc, gyr, rfl⟩))
      (fun k => by simp [Position.legal, lastStep, Instr.isInit]) (fun _ => rfl)
      (fun _ => ⟨by simp [Position.legal, Instr.isInit], by simp [stepsLeft, enintLeft]⟩) k
  | 7 =>
    exact enint_effect (i := .init acc gyr d) (j := 7) (rest := 1) (fun _ => by simp [Position.inRegisterBody]) (.inr some3)
      (fun k => by simp [Position.legal, lastStep, Instr.isInit]) (fun _ _ => rfl)
      (fun _ => ⟨by simp [Position.legal, lastStep, Instr.isInit], by simp [stepsLeft]⟩) k
  | 8 => exact .initDone rfl
  | j + 9 => exact .none (by simp [Position.legal, Instr.isInit])

/-- All that one step of the block can do, whatever command runs (R33): outside INIT, INIT's own step is 0. -/
theorem commandStep_effect (i : Instr) (p : Position) (l : Locals) (s : State)
    (h : Instr.isInit i = false → p.initStep = 0) : BlockEffect i p l s (commandStep i (s.running i p l)) := by
  obtain ⟨j, k⟩ := p
  cases i with
  | init acc gyr d => exact init_effect acc gyr d j k l s
  | setacc acc =>
    obtain rfl : j = 0 := h rfl
    exact singleWrite_effect (i := .setacc acc) (j := 0) (f := setaccStep acc) (upd := State.setAccelRange acc) (reg := 0x1C) (v := encRange acc.code)
      (rest := 0) rfl rfl rfl (fun _ => rfl) (writeAllowed_range _).1 (fun _ => trivial) (.accelRange acc (.inl rfl))
      (fun k => by simp [Position.legal, lastStep, Instr.isInit]) (fun _ => rfl) (fun hj => absurd hj.1 (by omega)) k
  | setgyr gyr =>
    obtain rfl : j = 0 := h rfl
    exact singleWrite_effect (i := .setgyr gyr) (j := 0) (f := setgyrStep gyr) (upd := State.setGyroRange gyr) (reg := 0x1B) (v := encRange gyr.code)
      (rest := 0) rfl rfl rfl (fun _ => rfl) (writeAllowed_range _).2 (fun _ => trivial) (.gyroRange gyr (.inl rfl))
      (fun k => by simp [Position.legal, lastStep, Instr.isInit]) (fun _ => rfl) (fun hj => absurd hj.1 (by omega)) k
  | setdiv d =>
    obtain rfl : j = 0 := h rfl
    exact singleWrite_effect (i := .setdiv d) (j := 0) (f := setdivStep d) (upd := State.setDivider d) (reg := 0x19) (v := d)
      (rest := 0) rfl rfl rfl (fun _ => rfl) rfl (fun _ => trivial) (.divider d (.inl rfl))
      (fun k => by simp [Position.legal, lastStep, Instr.isInit]) (fun _ => rfl) (fun hj => absurd hj.1 (by omega)) k
  | wake =>
    obtain rfl : j = 0 := h rfl
    exact singleWrite_effect (i := .wake) (j := 0) (f := wakeStep) (upd := id) (reg := 0x6B) (v := 0x00)
      (rest := 0) rfl rfl rfl (fun _ => rfl) (by decide) (fun _ => trivial) (.nothing (.inl rfl))
      (fun k => by simp [Position.legal, lastStep, Instr.isInit]) (fun _ => rfl) (fun hj => absurd hj.1 (by omega)) k
  | enint =>
    obtain rfl : j = 0 := h rfl
    exact enint_effect (i := .enint) (j := 0) (rest := 0) (fun _ => trivial) (.inl rfl)
      (fun k => by simp [Position.legal, lastStep, Instr.isInit]) (fun _ _ => rfl) (fun hj => absurd hj.1 (by omega)) k
  | find first last =>
    obtain rfl : j = 0 := h rfl
    have hb := scanBounds_le s.params.scanMode first last
    exact scan_effect (i := .find first last) (j := 0) hb.1 hb.2.1 hb.2.2 (fun _ => trivial)
      (fun k => by simp [Position.legal, lastStep, Instr.isInit]) (fun _ _ => rfl) (fun hj => absurd hj.1 (by omega)) k
  | read =>
    obtain rfl : j = 0 := h rfl
    exact read_effect k

/-! ### Induction over a command's steps -/

/-- What every step of a command keeps, the command keeps. -/
theorem untilIdle_keeps {f : State → State} {P : State → Prop} (h : ∀ s, s.seq ≠ .idle → P s → P (f s)) (n : Nat) :
    ∀ s, P s → P (untilIdle n f s) := by
  induction n with
  | zero => exact fun _ hs => hs
  | succ n ih =>
    intro s hs
    unfold untilIdle
    split
    · exact hs
    · next hi => exact ih _ (h s (fun h => hi (by rw [h]; rfl)) hs)

theorem exec_eq_runCommand (i : Instr) (s : State) : exec i s = runCommand i (commandStep i) s := by
  cases i <;> rfl

end Sys2Proof.Machine
end

