-- ==== Sys2Proof/Tests/Slice0.lean ====
section
/-! SUPPORT. Tests of one step each, with expected values from spec/95_test_vectors.md (its section stands in the
comment of each group), the well-formedness smoke tests, and a witness for the hypotheses of every statement
of Certificates/Slice0/Obligations.lean. -/

namespace Sys2Proof.Tests.Slice0

open Sys2Proof Sys2Proof.Machine

/-! ### Helpers -/

/-- An answer with a status and no bytes of its own. -/
def status (st : Status) : Draw := { status := st, bytes := [] }

/-- An `Ok` read answer. -/
def bytes (b : List Byte) : Draw := { status := .ok, bytes := b }

/-- The start state of §2.2: `cfg = (0x68, 1, 1, 5)`, and the transport's answers to come. -/
def at68 (answers : List Draw) : State :=
  { State.reset with
    cfg := { address := 0x68, accelRange := .g4, gyroRange := .dps500, divider := 5 }
    answers := answers }

/-- Power-on with answers listed. -/
def fresh (answers : List Draw) : State := { State.reset with answers := answers }

/-- A state that is running a command. -/
def running (i : Instr) (j k : Nat) (l : Locals) (answers : List Draw) : State :=
  { at68 answers with seq := .run i { initStep := j, step := k } l }

/-- What a next state shows; none for a fault or a refusal. -/
def after {α : Type} (f : State → α) (o : Host.Outcome State Fault Refusal) : Option α :=
  match o with
  | .next t => some (f t)
  | .fault _ => none
  | .refused _ => none

/-- What the tests compare: `cfg`, the results and the requests. -/
structure View where
  cfg : DeviceConfig
  results : List ErrorKind
  requests : List Request
  deriving DecidableEq, Repr

/-- The view of a state. -/
def view (t : State) : View := { cfg := t.cfg, results := t.results, requests := t.requests }

/-! ### Well-formedness smoke tests (30_encoding.md R91 to R98): each check refuses an ill-formed word -/

theorem test_wf_reserved_opcode_zero : wordWellFormed 0x00000000 = false := by decide
theorem test_wf_reserved_opcode_nine : wordWellFormed 0x00000009 = false := by decide
theorem test_wf_range_in_a : wordWellFormed 0x00000401 = false := by decide
theorem test_wf_range_in_a_high_bits : wordWellFormed 0x0000FC02 = false := by decide
theorem test_wf_range_in_b : wordWellFormed 0x07040307 = false := by decide
theorem test_wf_zero_in_a : wordWellFormed 0x00000104 = false := by decide
theorem test_wf_zero_in_b : wordWellFormed 0x00010003 = false := by decide
theorem test_wf_zero_in_c : wordWellFormed 0x01706006 = false := by decide
theorem test_wf_raw_command : (RawCommand.mk 0x08 0x00 0x00 0x80).wellFormed = false := by decide
theorem test_wf_accepts_byte : wordWellFormed 0x0000FF03 = true := by decide

/-! ### Decoding (§2.1, with words written out from the field table of 30_encoding.md) -/

theorem test_decode_setacc : decode 0x00000301 = .ok (.setacc .g16) := by decide
theorem test_decode_setacc_code0 : decode 0x00000001 = .ok (.setacc .g2) := by decide
theorem test_decode_setgyr : decode 0x00000202 = .ok (.setgyr .dps1000) := by decide
theorem test_decode_setdiv : decode 0x0000FF03 = .ok (.setdiv 0xFF) := by decide
theorem test_decode_wake : decode 0x00000004 = .ok .wake := by decide
theorem test_decode_enint : decode 0x00000005 = .ok .enint := by decide
theorem test_decode_find : decode 0x00706006 = .ok (.find 0x60 0x70) := by decide
theorem test_decode_init : decode 0x07030207 = .ok (.init .g8 .dps2000 7) := by decide
theorem test_decode_read : decode 0x00000008 = .ok .read := by decide
theorem test_decode_refuses_wake_c : decode 0x80000004 = .error (.reservedBits 0x04 .c) := by decide
theorem test_decode_refuses_init_b : decode 0x07040307 = .error (.reservedBits 0x07 .b) := by decide
theorem test_decode_refuses_nine : decode 0x00000009 = .error (.reservedOpcode 0x09) := by decide
theorem test_decode_table_word : decodeTableWord 32 0x00FF0006 = some (.find 0x00 0xFF) := by decide
theorem test_assemble_init : assemble "init 16g, 2000dps, 7" = some 0x07030307 := by decide
theorem test_assemble_upper_hex : assemble "FIND 0x60, 0x70" = some 0x00706006 := by decide

/-! ### The commands, one step each -/

/-- §2.2, row `setacc 16g`. -/
theorem test_setacc_ok :
    after view (exec (.setacc .g16) (at68 [status .ok])) =
      some (View.mk ⟨0x68, .g16, .dps500, 5⟩ [.noError] [writeOf 0x68 0x1C 0x18]) := by decide

/-- §2.2: the same answered Error. -/
theorem test_setacc_error :
    after view (exec (.setacc .g16) (at68 [status .error])) =
      some (View.mk ⟨0x68, .g4, .dps500, 5⟩ [.transportError] [writeOf 0x68 0x1C 0x18]) := by decide

/-- §2.2, row `setgyr 1000dps`. -/
theorem test_setgyr_ok :
    after view (exec (.setgyr .dps1000) (at68 [status .ok])) =
      some (View.mk ⟨0x68, .g4, .dps1000, 5⟩ [.noError] [writeOf 0x68 0x1B 0x10]) := by decide

/-- §1, E9: from power-on there is no transaction. -/
theorem test_setgyr_not_configured :
    after view (exec (.setgyr .dps250) State.reset) = some (View.mk ⟨0, .g2, .dps250, 0⟩ [.notConfigured] []) := by decide

/-- §2.2, row `setdiv 255`. -/
theorem test_setdiv_ok :
    after view (exec (.setdiv 255) (at68 [status .ok])) =
      some (View.mk ⟨0x68, .g4, .dps500, 255⟩ [.noError] [writeOf 0x68 0x19 0xFF]) := by decide

/-- §2.2: the same answered Busy. -/
theorem test_setdiv_busy :
    after view (exec (.setdiv 255) (at68 [status .busy])) =
      some (View.mk ⟨0x68, .g4, .dps500, 5⟩ [.busy] [writeOf 0x68 0x19 0xFF]) := by decide

/-- §2.3. -/
theorem test_wake_ok :
    after view (exec .wake (at68 [status .ok])) =
      some (View.mk ⟨0x68, .g4, .dps500, 5⟩ [.noError] [writeOf 0x68 0x6B 0x00]) := by decide

/-- §2.3: answered Timeout. -/
theorem test_wake_timeout :
    after view (exec .wake (at68 [status .timeout])) =
      some (View.mk ⟨0x68, .g4, .dps500, 5⟩ [.timeout] [writeOf 0x68 0x6B 0x00]) := by decide

/-- §2.4, the row where 0x37 holds 0x82. -/
theorem test_enint_ok :
    after view (exec .enint (at68 [status .ok, status .ok, bytes [0x82], status .ok])) =
      some (View.mk ⟨0x68, .g4, .dps500, 5⟩ [.noError]
        [writeOf 0x68 0x38 0x01, selectOf 0x68 0x37, readOf 0x68 1,
          writeOf 0x68 0x37 0x92]) := by decide

/-- §2.4: transaction 3 answers Timeout. -/
theorem test_enint_read_timeout :
    after view (exec .enint (at68 [status .ok, status .ok, status .timeout])) =
      some (View.mk ⟨0x68, .g4, .dps500, 5⟩ [.timeout]
        [writeOf 0x68 0x38 0x01, selectOf 0x68 0x37, readOf 0x68 1]) := by decide

/-- §2.5, the row where the probe at 0x68 answers Timeout; no probe acknowledges. -/
theorem test_find_none :
    after view (exec (.find 0x66 0x69) (fresh [status .error, status .error, status .timeout])) =
      some (View.mk ⟨0, .g2, .dps250, 0⟩ [.deviceNotFound]
        [probeOf 0x66, probeOf 0x67, probeOf 0x68]) := by decide

/-- §2.5: `find 0x60, 0x70` with the device at 0x68 issues 9 probes. -/
theorem test_find_latches :
    after (fun t => (t.cfg.address, t.results, t.requests.length))
        (exec (.find 0x60 0x70) (fresh (List.replicate 8 (status .error) ++ [status .ok]))) =
      some (0x68, [.noError], 9) := by decide

/-- §2.6: no failure, 112 transactions. -/
theorem test_init_ok :
    after (fun t => t.cfg) (exec (.init .g16 .dps2000 7)
        (fresh (List.replicate 103 (status .error) ++ List.replicate 9 (status .ok)))) =
      some ⟨0x68, .g16, .dps2000, 7⟩ := by decide +kernel

/-- §2.6: transaction 107, the gyroscope range's write, answers Timeout. -/
theorem test_init_stops_at_setgyr :
    after (fun t => (t.cfg.address, t.cfg.accelRange, t.cfg.gyroRange, t.results, t.requests.length))
        (exec (.init .g16 .dps2000 7) (fresh (List.replicate 103 (status .error) ++
          [status .ok, status .ok, status .ok, status .timeout]))) =
      some (0x68, .g16, .dps250, [.timeout], 107) := by decide +kernel

/-- 42_acquisition.md R195: the burst `40 00 C0 00 00 00 00 00 00 83 FF 7D 00 00` at codes 0. -/
theorem test_read_ok :
    after (fun t => (t.raw, t.cal)) (exec .read
        { fresh [status .ok, bytes [0x40, 0x00, 0xC0, 0x00, 0x00, 0x00, 0x00, 0x00, 0x00, 0x83, 0xFF, 0x7D, 0x00, 0x00]] with
          cfg := { address := 0x68, accelRange := .g2, gyroRange := .dps250, divider := 0 } }) =
      some (⟨0x4000, 0xC000, 0x0000, 0x0000, 0x0083, 0xFF7D, 0x0000⟩,
        ⟨0x3F800000, 0xBF800000, 0x00000000, 0x42121EB8, 0x3F800000, 0xBF800000, 0x00000000⟩) := by decide +kernel

/-- §2.7: the read of 14 bytes answers Busy. -/
theorem test_read_busy :
    after (fun t => (view t, t.raw, t.cal)) (exec .read (at68 [status .ok, status .busy])) =
      some (View.mk ⟨0x68, .g4, .dps500, 5⟩ [.busy] [selectOf 0x68 0x3B, readOf 0x68 14],
        Seven.replicate 0, Seven.replicate 0) := by decide

/-! ### Calibration (§1 E6, §2.7) -/

theorem test_calibrate_gyro : toFloat (gyroExact .signed .dps1000 0x0083) = 0x407F9C19 := by decide +kernel
theorem test_calibrate_gyro_negative : toFloat (gyroExact .signed .dps2000 0x8000) = 0xC4F9C190 := by decide +kernel
theorem test_calibrate_accel : toFloat (accelExact .signed .g16 0x7FFF) = 0x417FFE00 := by decide +kernel
theorem test_calibrate_accel_unsigned : toFloat (accelExact .referenceUnsigned .g2 0xC000) = 0x40400000 := by decide +kernel
theorem test_calibrate_temperature :
    toFloat (temperatureExact Params.default 0xCF7C) = 0x3A1A33CD := by decide +kernel
theorem test_calibrate_temperature_reference :
    toFloat (temperatureExact { Params.default with tempFormula := .reference } 0x7FFF) = 0xC26F5FC6 := by decide +kernel

/-! ### Scan lists (§2.5) -/

theorem test_scan_skips_zero : scanList .bounded 0x00 0x03 = [1, 2] := by decide
theorem test_scan_only_zero_is_empty : scanList .bounded 0x00 0x01 = [] := by decide
theorem test_scan_backwards_is_empty : scanList .bounded 0x70 0x60 = [] := by decide
theorem test_scan_largest_end : (scanList .bounded 0xFD 0xFF) = [0xFD, 0xFE] := by decide
theorem test_scan_full : (scanList .fullScan 0x70 0x80).length = 254 := by decide +kernel

/-! ### The step -/

/-- §3 P2, its first command: `read` presented at power-on. -/
theorem test_step_runs_read :
    after view (step (State.reset.withFetchWord 32 0x00000008)) =
      some (View.mk ⟨0, .g2, .dps250, 0⟩ [.notConfigured] []) := by decide

/-- §3 P5: the word 0x00000401 is refused. -/
theorem test_step_refuses :
    (match step (State.reset.withFetchWord 32 0x00000401) with
      | .refused r => some r
      | _ => none) = some (.wordRefused (.reservedBits 0x01 .a)) := by decide

/-- A command that is part way is carried on: ENINT at its step 3 with `v = 0x02` (§2.4). -/
theorem test_step_resumes_enint :
    after view (step (running .enint 0 3 { Locals.empty with v := 0x02 } [status .ok])) =
      some (View.mk ⟨0x68, .g4, .dps500, 5⟩ [.noError] [writeOf 0x68 0x37 0x12]) := by decide

/-! ### Witnesses: concrete states and operands that meet the statements' hypotheses -/

theorem test_witness_step_runs :
    ((State.reset.withFetchWord 32 0x00000008).seq = .idle ∧
      (State.reset.withFetchWord 32 0x00000008).commands = 0x00000008 :: [] ∧ decode 0x00000008 = .ok .read) := by decide

theorem test_witness_step_refuses :
    ((State.reset.withFetchWord 32 0x09).seq = .idle ∧ (State.reset.withFetchWord 32 0x09).commands = 0x00000009 :: [] ∧
      decode 0x00000009 = .error (.reservedOpcode 0x09)) := by decide

theorem test_witness_waits : State.reset.seq = .idle ∧ State.reset.commands = [] := by decide

theorem test_witness_busy : (running .enint 0 3 Locals.empty []).seq = .run .enint ⟨0, 3⟩ Locals.empty := by decide

theorem test_witness_decoded : decode 0x00000703 = .ok (.setdiv 7) := by decide

theorem test_witness_table_row :
    (0x0000FF03 : CommandWord) &&& (Instr.setdiv 0).matchMask.2 = (Instr.setdiv 0).matchMask.1 := by decide

theorem test_witness_well_formed : wordWellFormed 0xFF030307 = true ∧ wordWellFormed 0xFF040307 = false := by decide

/-- The three hypotheses of a single-write command: the address unset; set and answered `Ok`. -/
theorem test_witness_setter :
    (State.reset.seq = .idle ∧ State.reset.cfg.address = 0) ∧
      ((at68 [status .ok]).seq = .idle ∧ (at68 [status .ok]).cfg.address ≠ 0 ∧ (at68 [status .ok]).statusAt 0 = .ok) := by decide

/-- Set, and answered with each failure. -/
theorem test_witness_setter_fails :
    (at68 []).cfg.address ≠ 0 ∧ failKind ((at68 [status .timeout]).statusAt 0) = some .timeout ∧
      failKind ((at68 [status .busy]).statusAt 0) = some .busy ∧
      failKind ((at68 [status .error]).statusAt 0) = some .transportError := by decide

/-- ENINT's four answers `Ok`; ENINT also where the address is unset. -/
theorem test_witness_enint :
    let s := at68 [status .ok, status .ok, bytes [0x82], status .ok]
    s.seq = .idle ∧ s.cfg.address ≠ 0 ∧ (∀ j, j < 4 → s.statusAt j = .ok) ∧ s.bytesAt 2 1 = [0x82] := by decide

/-- ENINT failing at its first and at its last answer. -/
theorem test_witness_enint_fails :
    failKind ((at68 [status .busy]).statusAt 0) = some .busy ∧
      (let s := at68 [status .ok, status .ok, bytes [0x02], status .timeout]
       (∀ m, m < 3 → s.statusAt m = .ok) ∧ failKind (s.statusAt 3) = some .timeout) := by decide

/-- FIND acknowledged at the first address of its list, and at the last. -/
theorem test_witness_find :
    (scanList State.reset.params.scanMode 0x00 0x04 = [] ++ 1 :: [2, 3] ∧ (fresh [status .ok]).statusAt 0 = .ok) ∧
      (let s := fresh [status .error, status .busy, status .ok]
       scanList s.params.scanMode 0x00 0x04 = [1, 2] ++ 3 :: [] ∧ (∀ j, j < 2 → s.statusAt j ≠ .ok) ∧
        s.statusAt 2 = .ok) := by decide

/-- FIND with no acknowledgement, and with an empty list. -/
theorem test_witness_find_none :
    (let s := fresh [status .error, status .timeout]
     ∀ j, j < (scanList s.params.scanMode 0x60 0x62).length → s.statusAt j ≠ .ok) ∧
      (∀ j, j < (scanList .bounded 0x70 0x60).length → State.reset.statusAt j ≠ .ok) := by decide

/-- INIT with no device. -/
theorem test_witness_init_none :
    let s := fresh (List.replicate 254 (status .error))
    s.seq = .idle ∧ ∀ j, j < 254 → s.statusAt j ≠ .ok := by decide +kernel

/-- INIT acknowledged at the first address, all eight later answers `Ok`; and the last of them a failure. -/
theorem test_witness_init_first :
    initScanList = [] ++ 1 :: addressSpan 2 255 ∧
      (let s := fresh (List.replicate 9 (status .ok))
       s.statusAt 0 = .ok ∧ ∀ j, j < 8 → s.statusAt (1 + j) = .ok) ∧
      (let s := fresh (List.replicate 8 (status .ok) ++ [status .error])
       s.statusAt 0 = .ok ∧ (∀ m, m < 7 → s.statusAt (1 + m) = .ok) ∧
        failKind (s.statusAt (1 + 7)) = some .transportError) := by decide +kernel

/-- INIT acknowledged at the first address, and each of the eight later answers in turn the first failure. -/
theorem test_witness_init_each_failure :
    ∀ j, j < 8 →
      let s := fresh (List.replicate (j + 1) (status .ok) ++ [status .timeout])
      s.seq = .idle ∧ s.statusAt 0 = .ok ∧ (∀ m, m < j → s.statusAt (1 + m) = .ok) ∧
        failKind (s.statusAt (1 + j)) = some .timeout := by decide +kernel

/-- INIT acknowledged at the last address, the first of the eight a failure. -/
theorem test_witness_init_last :
    initScanList = addressSpan 1 254 ++ 254 :: [] ∧ (addressSpan 1 254).length = 253 ∧
      (let s := fresh (List.replicate 253 (status .error) ++ [status .ok, status .busy])
       (∀ j, j < 253 → s.statusAt j ≠ .ok) ∧ s.statusAt 253 = .ok ∧ failKind (s.statusAt (254 + 0)) = some .busy) := by
  decide +kernel

/-- READ with both answers `Ok`, the pointer's a failure, the burst's a failure. -/
theorem test_witness_read :
    (at68 []).seq = .idle ∧ (at68 []).cfg.address ≠ 0 ∧
      ((at68 [status .ok, bytes [1, 2]]).statusAt 0 = .ok ∧ (at68 [status .ok, bytes [1, 2]]).statusAt 1 = .ok) ∧
      failKind ((at68 [status .error]).statusAt 0) = some .transportError ∧
      ((at68 [status .ok, status .timeout]).statusAt 0 = .ok ∧
        failKind ((at68 [status .ok, status .timeout]).statusAt 1) = some .timeout) := by decide

/-- The commands that check the address, at power-on; and FIND and INIT reach a next state there. -/
theorem test_witness_not_configured :
    (State.reset.seq = .idle ∧ State.reset.cfg.address = 0 ∧ (Instr.read = .read)) ∧
      after (fun _ => ()) (exec (.find 0x70 0x60) State.reset) = some () := by decide

/-- INIT reaches a next state from power-on. -/
theorem test_witness_init_completes :
    after (fun t => t.err.kind) (exec (.init .g2 .dps250 0) (fresh [status .ok, status .busy])) = some .busy := by decide +kernel

/-- A command other than INIT that ends in an error. -/
theorem test_witness_failed_command :
    after (fun t => t.err.kind) (exec .read (at68 [status .ok, status .timeout])) = some .timeout := by decide

/-- A running state that meets the invariant: a register command past its check. -/
theorem test_witness_invariant_running : (running .enint 0 3 Locals.empty []).BlockInv := by
  refine ⟨⟨rfl, fun r h => by cases h⟩, ?_⟩
  exact ⟨⟨by decide, by decide⟩, fun _ _ => by decide, fun h => by cases h⟩

/-- A running state that meets the invariant: INIT's scan at the last address. -/
theorem test_witness_invariant_scanning :
    (running (.init .g2 .dps250 0) 2 1 { Locals.empty with scanAddress := 254 } []).BlockInv := by
  refine ⟨⟨rfl, fun r h => by cases h⟩, ?_⟩
  exact ⟨⟨by decide, by decide⟩, fun h => absurd h.1 (by decide), fun _ _ _ => by decide⟩

/-- From each of those a step answers a next state, and its address is still set. -/
theorem test_witness_step_next :
    after (fun t => t.cfg.address) (step (running .enint 0 3 Locals.empty [status .ok])) = some 0x68 ∧
      (running .enint 0 3 Locals.empty [status .ok]).cfg.address ≠ 0 := by decide

/-- An Idle state that meets the invariant, from which a step answers a next state. -/
theorem test_witness_step_next_idle :
    State.reset.BlockInv ∧ (∃ t, step State.reset = .next t) :=
  ⟨⟨⟨rfl, fun r h => by cases h⟩, trivial⟩, State.reset, rfl⟩

/-- A step of the block that raises an error. -/
theorem test_witness_raises :
    let s := running .wake 0 1 Locals.empty [status .busy]
    s.seq ≠ .idle ∧ (blockStep s).seq = .idle ∧ (blockStep s).err.kind ≠ .noError := by decide

/-- The two steps that change the sample files: READ's step 2, and INIT's step 1. -/
theorem test_witness_sample_steps :
    (running .read 0 2 { Locals.empty with b := [0x40, 0x00] } []).SequencerSound ∧
      (running (.init .g2 .dps250 0) 1 0 Locals.empty []).SequencerSound := by
  refine ⟨⟨⟨by decide, by decide⟩, fun _ _ => by decide, fun h => by cases h⟩, ⟨⟨by decide, by decide⟩, ?_, ?_⟩⟩
  · exact fun h => absurd h.1 (by decide)
  · exact fun h => by cases h

/-- The last accelerometer entry and the first gyroscope entry. -/
theorem test_witness_entries : ((2 : Fin 7).val ≤ 2) ∧ 4 ≤ (4 : Fin 7).val := by decide

/-- Raw words with an opposite: the least and the greatest. -/
theorem test_witness_opposites :
    ((0x0001 : Word) ≠ 0 ∧ (0x0001 : Word) ≠ 0x8000) ∧ ((0x7FFF : Word) ≠ 0 ∧ (0x7FFF : Word) ≠ 0x8000) := by decide

/-- A rational below the threshold of overflow, and one that is as near to two binary32 values: 2^24 + 1. -/
theorem test_witness_round :
    |(36.53 : Rat)| < 2 ^ 128 - 2 ^ 103 ∧ |(16777217 : Rat)| < 2 ^ 128 - 2 ^ 103 ∧
      (floatFinite (toFloat 16777217) ∧ floatFinite 0x4B800001) ∧
      |floatValue (toFloat 16777217) - 16777217| = |floatValue 0x4B800001 - 16777217| ∧
      floatValue 0x4B800001 ≠ floatValue (toFloat 16777217) := by
  refine ⟨by norm_num, by norm_num, ?_⟩
  simp only [floatFinite]
  decide +kernel

end Sys2Proof.Tests.Slice0
end

section
/-! PROOFS. The two readings of a raw word (spec/00_scope.md R14, spec/10_state.md R28): one equation for each
setting, and `sext_16` by the case on bit 15. -/

namespace Sys2Proof.Machine

/-- R14: two's complement by its sign bit, which is bit 15. -/
theorem sext16_eq_ite_bit15 (w : Word) :
    sext16 w = if w.getLsbD 15 then (w.toNat : Int) - 65536 else (w.toNat : Int) := by
  have hsign : w.msb = w.getLsbD 15 := BitVec.msb_eq_getLsbD_last w
  rw [← hsign]
  exact BitVec.toInt_eq_msb_cond w

@[simp] theorem rawval_signed (w : Word) : rawval .signed w = sext16 w := rfl

@[simp] theorem rawval_referenceUnsigned (w : Word) : rawval .referenceUnsigned w = (w.toNat : Int) := rfl

/-- Settles O43: the signed reading is `sext_16`, which bit 15 decides, and the other is the word's value. -/
theorem rawWordReadings : Obligations.RawWordReadings := fun w =>
  ⟨(rawval_signed w).trans (sext16_eq_ite_bit15 w), rawval_referenceUnsigned w⟩

end Sys2Proof.Machine
end

section
/-! PROOFS. How one step of the block moves a command that stands at a place of its pseudocode: it ends the command or
leaves it at another such place with fewer steps left (spec/10_state.md R32, R33); and induction over a whole command. -/

namespace Sys2Proof.Machine

/-- The block is Idle, or runs `i` at a place of its pseudocode (R32). -/
def State.OnCourse (i : Instr) (s : State) : Prop :=
  s.seq = .idle ∨ ∃ p l, s.seq = .run i p l ∧ Position.legal i p

theorem Position.legal_zero (i : Instr) : Position.legal i ⟨0, 0⟩ := by cases i <;> simp [Position.legal, Instr.isInit]

theorem Position.legal.initStep_eq_zero {i : Instr} {p : Position} (hp : Position.legal i p)
    (hi : Instr.isInit i = false) : p.initStep = 0 := by
  obtain ⟨-, hp⟩ := hp
  simpa [hi] using hp

theorem Position.legal_init_of_le {i : Instr} (hi : Instr.isInit i = true) {j : Nat} (hj : j ≤ 8) :
    Position.legal i ⟨j, 0⟩ := ⟨Nat.zero_le _, by simpa [hi] using hj⟩

theorem State.onCourse_running {i : Instr} {p : Position} (hp : Position.legal i p) (l : Locals) (s : State) :
    (s.running i p l).OnCourse i := .inr ⟨p, l, rfl, hp⟩

theorem blockStep_of_idle {s : State} (hs : s.seq = .idle) : blockStep s = s := by simp [blockStep, hs]

theorem blockStep_of_run {s : State} {i : Instr} {p : Position} {l : Locals} (hs : s.seq = .run i p l) :
    blockStep s = commandStep i s := by simp [blockStep, hs]

/-- `commandStep_effect` for a step of the block at a place of the running command's pseudocode. -/
theorem blockStep_effect {s : State} {i : Instr} {p : Position} {l : Locals} (hs : s.seq = .run i p l)
    (hp : Position.legal i p) : BlockEffect i p l s (blockStep s) := by
  have h := commandStep_effect i p l s hp.initStep_eq_zero
  rwa [← State.eq_running hs, ← blockStep_of_run hs] at h

/-! ### Progress -/

/-- A bound on the steps of the block until it is Idle. -/
def State.remaining (s : State) : Nat :=
  match s.seq with
  | .idle => 0
  | .run i p l => stepsLeft i p l

theorem State.remaining_of_idle {s : State} (hs : s.seq = .idle) : s.remaining = 0 := by simp [remaining, hs]

theorem State.remaining_of_run {s : State} {i : Instr} {p : Position} {l : Locals} (hs : s.seq = .run i p l) :
    s.remaining = stepsLeft i p l := by simp [remaining, hs]

theorem enintLeft_pos (k : Nat) (l : Locals) : 0 < enintLeft k l := by fun_cases enintLeft k l <;> omega

theorem readLeft_pos (k : Nat) (l : Locals) : 0 < readLeft k l := by fun_cases readLeft k l <;> omega

theorem scanLeft_pos (k : Nat) (l : Locals) : 0 < scanLeft k l := by fun_cases scanLeft k l <;> omega

/-- A command at a place of its pseudocode has a step to take. -/
theorem stepsLeft_pos {i : Instr} {p : Position} (hp : Position.legal i p) (l : Locals) : 0 < stepsLeft i p l := by
  obtain ⟨hk, -⟩ := hp
  cases i with
  | setacc | setgyr | setdiv | wake => exact Nat.sub_pos_of_lt (Nat.lt_succ_of_le hk)
  | enint => exact enintLeft_pos _ _
  | find => exact scanLeft_pos _ _
  | read => exact readLeft_pos _ _
  | init acc gyr d =>
    have := scanLeft_pos p.step l
    simp only [stepsLeft]
    split <;> omega

/-- A step ends the command, or leaves it at another place of its pseudocode with fewer steps left. -/
theorem BlockEffect.idle_or_advances {i : Instr} {p : Position} {l : Locals} {s t : State} (h : BlockEffect i p l s t)
    (hp : Position.legal i p) :
    t.seq = .idle ∨ ∃ q m, t.seq = .run i q m ∧ Position.legal i q ∧ stepsLeft i q m < stepsLeft i p l := by
  have atSucceed : ∀ u : State,
      (2 ≤ p.initStep ∧ p.initStep ≤ 7 → Position.legal i ⟨p.initStep + 1, 0⟩ ∧
        stepsLeft i ⟨p.initStep + 1, 0⟩ Locals.empty < stepsLeft i p l) →
      (u.succeedAt i p.initStep).seq = .idle ∨
        ∃ q m, (u.succeedAt i p.initStep).seq = .run i q m ∧ Position.legal i q ∧ stepsLeft i q m < stepsLeft i p l := by
    intro u hn
    unfold State.succeedAt
    split
    · next hj => exact .inr ⟨_, _, rfl, hn hj⟩
    · exact .inl rfl
  cases h with
  | none hn => exact absurd hp hn
  | notConfigured | failed | notFound | initDone => exact .inl rfl
  | addressed _ _ _ hq hm | answered _ _ _ _ _ _ _ _ hq hm | scanStarted _ _ _ _ hq hm | scanEnded _ _ _ hq hm
  | notAcknowledged _ _ _ _ _ _ hq hm => exact .inr ⟨_, _, rfl, hq, hm⟩
  | updated _ _ _ _ hn | found _ _ _ _ hn => exact atSucceed _ hn
  | initEntered hi hm | initCleared hi hm => exact .inr ⟨_, _, rfl, Position.legal_init_of_le hi (by omega), hm⟩

theorem State.OnCourse.blockStep {i : Instr} {s : State} (h : s.OnCourse i) : (blockStep s).OnCourse i := by
  rcases h with hs | ⟨p, l, hs, hp⟩
  · exact .inl (by rw [blockStep_of_idle hs, hs])
  · rcases (blockStep_effect hs hp).idle_or_advances hp with ht | ⟨q, m, ht, hq, -⟩
    · exact .inl ht
    · exact .inr ⟨q, m, ht, hq⟩

theorem State.OnCourse.remaining_blockStep_lt {i : Instr} {s : State} (h : s.OnCourse i) (hs : s.seq ≠ .idle) :
    (Machine.blockStep s).remaining < s.remaining := by
  rcases h with hi | ⟨p, l, hs, hp⟩
  · exact absurd hi hs
  rw [State.remaining_of_run hs]
  rcases (blockStep_effect hs hp).idle_or_advances hp with ht | ⟨q, m, ht, -, hm⟩
  · rw [State.remaining_of_idle ht]
    exact stepsLeft_pos hp l
  · rw [State.remaining_of_run ht]
    exact hm

/-! ### A whole command -/

theorem State.OnCourse.commandStep_eq_blockStep {i : Instr} {s : State} (h : s.OnCourse i) (hs : s.seq ≠ .idle) :
    commandStep i s = Machine.blockStep s := by
  rcases h with hi | ⟨p, l, hs, -⟩
  · exact absurd hi hs
  · exact (blockStep_of_run hs).symm

/-- What holds when a command has been accepted and is kept by each of its steps, holds when it has ended. -/
theorem exec_induction {i : Instr} {s t : State} {P : State → Prop} (h : exec i s = .next t)
    (start : P (s.running i ⟨0, 0⟩ Locals.empty))
    (step : ∀ p l u v, Position.legal i p → BlockEffect i p l u v → P u → P v) : P t := by
  rw [exec_eq_runCommand] at h
  obtain ⟨-, rfl⟩ := runCommand_next h
  refine (untilIdle_keeps (P := fun u => u.OnCourse i ∧ P u) (fun u hu ⟨hc, hP⟩ => ?_) stepBound _
    ⟨State.onCourse_running (Position.legal_zero i) _ s, start⟩).2
  rw [hc.commandStep_eq_blockStep hu]
  refine ⟨hc.blockStep, ?_⟩
  rcases hc with hi | ⟨p, l, hs, hp⟩
  · exact absurd hi hu
  · exact step p l u _ hp (blockStep_effect hs hp) hP

end Sys2Proof.Machine
end

section
/-! PROOFS. A command's meaning is its steps (spec/10_state.md R32 to R34). -/

namespace Sys2Proof.Machine

/-- The block is Idle for the first time after `n` of its steps. -/
def State.FirstIdleAfter (n : Nat) (s : State) : Prop :=
  (blockSteps n s).seq = .idle ∧ ∀ m, m < n → (blockSteps m s).seq ≠ .idle

theorem State.firstIdleAfter_zero {s : State} (hs : s.seq = .idle) : s.FirstIdleAfter 0 :=
  ⟨hs, fun _ hm => absurd hm (Nat.not_lt_zero _)⟩

theorem State.firstIdleAfter_succ {n : Nat} {s : State} (hs : s.seq ≠ .idle) (h : (blockStep s).FirstIdleAfter n) :
    s.FirstIdleAfter (n + 1) := by
  obtain ⟨hidle, hbusy⟩ := h
  refine ⟨hidle, fun m hm => ?_⟩
  cases m with
  | zero => exact hs
  | succ m => exact hbusy m (Nat.lt_of_succ_lt_succ hm)

theorem untilIdle_succ_of_not_idle {s : State} (n : Nat) (f : State → State) (hs : s.seq ≠ .idle) :
    untilIdle (n + 1) f s = untilIdle n f (f s) := by
  rw [Ne, ← Sequencer.isIdle_iff] at hs
  simp [untilIdle, hs]

/-- Given fuel for the steps that remain, running a command's steps is taking the block's. -/
theorem State.OnCourse.exists_firstIdleAfter {i : Instr} (n : Nat) : ∀ s : State, s.OnCourse i → s.remaining ≤ n →
    ∃ k ≤ n, s.FirstIdleAfter k ∧ ∀ fuel, n ≤ fuel → untilIdle fuel (commandStep i) s = blockSteps k s := by
  induction n with
  | zero =>
    intro s hc hr
    have hs : s.seq = .idle := by
      by_contra hs
      have := hc.remaining_blockStep_lt hs
      omega
    exact ⟨0, le_rfl, firstIdleAfter_zero hs, fun fuel _ => untilIdle_of_idle fuel _ hs⟩
  | succ n ih =>
    intro s hc hr
    by_cases hs : s.seq = .idle
    · exact ⟨0, by omega, firstIdleAfter_zero hs, fun fuel _ => untilIdle_of_idle fuel _ hs⟩
    have hlt := hc.remaining_blockStep_lt hs
    obtain ⟨k, hk, hfirst, hrun⟩ := ih _ hc.blockStep (by omega)
    refine ⟨k + 1, by omega, firstIdleAfter_succ hs hfirst, fun fuel hfuel => ?_⟩
    obtain ⟨fuel, rfl⟩ : ∃ m, fuel = m + 1 := ⟨fuel - 1, by omega⟩
    rw [untilIdle_succ_of_not_idle _ _ hs, hc.commandStep_eq_blockStep hs]
    exact hrun fuel (by omega)

/-- No command has more steps than INIT. -/
theorem remaining_start_le (i : Instr) (s : State) : (s.start i).remaining ≤ 276 := by
  cases i <;> simp [State.start, State.remaining, stepsLeft, enintLeft, readLeft, scanLeft]

/-- Settles O40: from its acceptance a command is on course, and the steps it has left bound its run. -/
theorem commandIsItsBlockSteps : Obligations.CommandIsItsBlockSteps := by
  intro s i hs
  have hcourse : (s.start i).OnCourse i := State.onCourse_running (Position.legal_zero i) _ s
  obtain ⟨n, hn, ⟨hidle, hbusy⟩, hrun⟩ := hcourse.exists_firstIdleAfter 276 _ (remaining_start_le i s)
  refine ⟨n, hn, ?_, hidle, hbusy⟩
  rw [exec_eq_runCommand, runCommand_idle _ _ hs, ← State.start_eq_running, hrun stepBound (by decide)]

end Sys2Proof.Machine
end

section
/-! PROOFS. The query ports (spec/10_state.md R37, R38). -/

namespace Sys2Proof.Machine

theorem State.query_of_idle {α : Type} {s : State} (f : State → α) (hs : s.seq = .idle) : s.query f = some (f s) := by
  simp [query, hs]

theorem State.query_of_run {α : Type} {s : State} {i : Instr} {p : Position} {l : Locals} (f : State → α)
    (hs : s.seq = .run i p l) : s.query f = none := by
  simp [query, hs]

/-- Settles O42: each port is a query, which an Idle block answers from its state and a running one does not. -/
theorem queryPortsShowTheState : Obligations.QueryPortsShowTheState := by
  refine ⟨fun s hs => ?_, fun s i p l hs => ?_⟩
  · exact ⟨State.query_of_idle _ hs, State.query_of_idle _ hs, fun _ => State.query_of_idle _ hs,
      fun _ => State.query_of_idle _ hs, State.query_of_idle _ hs⟩
  · exact ⟨State.query_of_run _ hs, State.query_of_run _ hs, fun _ => State.query_of_run _ hs,
      fun _ => State.query_of_run _ hs, State.query_of_run _ hs⟩

end Sys2Proof.Machine
end

section
/-! PROOFS. Which registers each command writes (spec/10_state.md §2, R21). -/

namespace Sys2Proof.Machine

/-- From `s` to `t` command `i` has written no register that R21 does not let it write, and no port's record of the
past is lost. -/
structure WritesOnlyItsRegisters (i : Instr) (s t : State) : Prop where
  address : (∀ a b, i ≠ .find a b) → (∀ acc gyr d, i ≠ .init acc gyr d) → t.cfg.address = s.cfg.address
  accelRange : (∀ acc, i ≠ .setacc acc) → (∀ acc gyr d, i ≠ .init acc gyr d) → t.cfg.accelRange = s.cfg.accelRange
  gyroRange : (∀ gyr, i ≠ .setgyr gyr) → (∀ acc gyr d, i ≠ .init acc gyr d) → t.cfg.gyroRange = s.cfg.gyroRange
  divider : (∀ d, i ≠ .setdiv d) → (∀ acc gyr d, i ≠ .init acc gyr d) → t.cfg.divider = s.cfg.divider
  samples : i ≠ .read → (∀ acc gyr d, i ≠ .init acc gyr d) → t.raw = s.raw ∧ t.cal = s.cal
  params : t.params = s.params
  commands : t.commands = s.commands
  results : s.results <+: t.results
  requests : s.requests <+: t.requests

namespace WritesOnlyItsRegisters

variable {i : Instr} {s t u : State}

theorem refl (i : Instr) (s : State) : WritesOnlyItsRegisters i s s :=
  ⟨fun _ _ => rfl, fun _ _ => rfl, fun _ _ => rfl, fun _ _ => rfl, fun _ _ => ⟨rfl, rfl⟩, rfl, rfl,
    List.prefix_rfl, List.prefix_rfl⟩

theorem trans (h : WritesOnlyItsRegisters i s t) (h' : WritesOnlyItsRegisters i t u) : WritesOnlyItsRegisters i s u where
  address hf hi := (h'.address hf hi).trans (h.address hf hi)
  accelRange ha hi := (h'.accelRange ha hi).trans (h.accelRange ha hi)
  gyroRange hg hi := (h'.gyroRange hg hi).trans (h.gyroRange hg hi)
  divider hd hi := (h'.divider hd hi).trans (h.divider hd hi)
  samples hr hi := ⟨(h'.samples hr hi).1.trans (h.samples hr hi).1, (h'.samples hr hi).2.trans (h.samples hr hi).2⟩
  params := h'.params.trans h.params
  commands := h'.commands.trans h.commands
  results := h.results.trans h'.results
  requests := h.requests.trans h'.requests

/-- The sequencer is no register of the table, and so is what the transport will answer. -/
theorem running (j : Instr) (p : Position) (l : Locals) (h : WritesOnlyItsRegisters i s t) :
    WritesOnlyItsRegisters i s (t.running j p l) := h.trans { refl i t with }

theorem recordError (k : ErrorKind) (h : WritesOnlyItsRegisters i s t) :
    WritesOnlyItsRegisters i s (t.recordError k) := h.trans { refl i t with }

theorem withResult (k : ErrorKind) (h : WritesOnlyItsRegisters i s t) :
    WritesOnlyItsRegisters i s (t.withResult k) := h.trans { refl i t with results := List.prefix_append _ _ }

theorem afterRequests (rs : List Request) (h : WritesOnlyItsRegisters i s t) :
    WritesOnlyItsRegisters i s (t.afterRequests rs) := h.trans { refl i t with requests := List.prefix_append _ _ }

theorem succeedAt (j : Nat) (h : WritesOnlyItsRegisters i s t) : WritesOnlyItsRegisters i s (t.succeedAt i j) := by
  unfold State.succeedAt
  split
  · exact (h.recordError _).running _ _ _
  · exact h.withResult _

/-- The update of a register body is of a register that its command may write. -/
theorem of_bodyUpdate {p : Position} {l : Locals} (h : BodyUpdate i p l s t) : WritesOnlyItsRegisters i s t := by
  cases h with
  | accelRange acc hi =>
    refine { refl i s with accelRange := fun ha hinit => ?_ }
    rcases hi with rfl | ⟨gyr, d, rfl⟩
    · exact absurd rfl (ha acc)
    · exact absurd rfl (hinit acc gyr d)
  | gyroRange gyr hi =>
    refine { refl i s with gyroRange := fun hg hinit => ?_ }
    rcases hi with rfl | ⟨acc, d, rfl⟩
    · exact absurd rfl (hg gyr)
    · exact absurd rfl (hinit acc gyr d)
  | divider d hi =>
    refine { refl i s with divider := fun hd hinit => ?_ }
    rcases hi with rfl | ⟨acc, gyr, rfl⟩
    · exact absurd rfl (hd d)
    · exact absurd rfl (hinit acc gyr d)
  | nothing => exact refl i s
  | samples hi => exact { refl i s with samples := fun hr _ => absurd hi hr }

/-- Only a scan's command sets the address. -/
theorem setAddress {p : Position} (hp : Position.inScan i p) (a : Byte) (h : WritesOnlyItsRegisters i s t) :
    WritesOnlyItsRegisters i s (t.setAddress a) := by
  refine h.trans { refl i t with address := fun hf hinit => ?_ }
  cases i with
  | find first last => exact absurd rfl (hf first last)
  | init acc gyr d => exact absurd rfl (hinit acc gyr d)
  | setacc | setgyr | setdiv | wake | enint | read => exact hp.elim

/-- Only INIT clears the samples. -/
theorem clearSamples (hi : Instr.isInit i = true) (h : WritesOnlyItsRegisters i s t) :
    WritesOnlyItsRegisters i s t.clearSamples := by
  refine h.trans { refl i t with samples := fun _ hinit => ?_ }
  cases i with
  | init acc gyr d => exact absurd rfl (hinit acc gyr d)
  | setacc | setgyr | setdiv | wake | enint | find | read => cases hi

theorem of_blockEffect {p : Position} {l : Locals} (h : BlockEffect i p l s t) : WritesOnlyItsRegisters i s t := by
  have same := refl i s
  cases h with
  | none | addressed | scanStarted | scanEnded | initEntered => exact same.running _ _ _
  | notConfigured | notFound | initDone => exact same.withResult _
  | answered | notAcknowledged => exact (same.afterRequests _).running _ _ _
  | failed => exact (same.afterRequests _).withResult _
  | updated u _ _ hu => exact (of_bodyUpdate hu).succeedAt _
  | found hb => exact ((same.afterRequests _).setAddress hb _).succeedAt _
  | initCleared hi => exact (same.clearSamples hi).running _ _ _

theorem of_exec (h : exec i s = .next t) : WritesOnlyItsRegisters i s t :=
  exec_induction h ((refl i s).running _ _ _) fun _ _ _ _ _ heffect hu => hu.trans (of_blockEffect heffect)

end WritesOnlyItsRegisters

/-- Settles O33: every step of a command writes only its registers, so the command does. -/
theorem onlyTheNamedCommandsWriteARegister : Obligations.OnlyTheNamedCommandsWriteARegister := by
  intro s t i h
  obtain ⟨address, accelRange, gyroRange, divider, samples, params, commands, results, requests⟩ :=
    WritesOnlyItsRegisters.of_exec h
  exact ⟨address, accelRange, gyroRange, divider, samples, params, commands, results, requests⟩

end Sys2Proof.Machine
end

section
/-! PROOFS. How a step of the block changes the sample files (spec/10_state.md R27, R29). -/

namespace Sys2Proof.Machine

@[simp] theorem Seven.get_ofFn {α : Type} (f : Fin 7 → α) (k : Fin 7) : (Seven.ofFn f).get k = f k := by
  fin_cases k <;> rfl

@[simp] theorem Seven.get_replicate {α : Type} (x : α) (k : Fin 7) : (Seven.replicate x).get k = x := by
  fin_cases k <;> rfl

/-- Entry `k` of a burst is its `k`-th pair of bytes, the high one first (R191). -/
theorem burstWords_get (b : List Byte) (k : Fin 7) :
    (burstWords b).get k = be16 (b.getD (2 * k) 0) (b.getD (2 * k + 1) 0) := Seven.get_ofFn _ k

@[simp] theorem State.succeedAt_raw (i : Instr) (j : Nat) (s : State) : (s.succeedAt i j).raw = s.raw := by
  unfold succeedAt
  split <;> rfl

@[simp] theorem State.succeedAt_cal (i : Instr) (j : Nat) (s : State) : (s.succeedAt i j).cal = s.cal := by
  unfold succeedAt
  split <;> rfl

/-- A step keeps the sample files, or is READ's last step, or clears them as INIT goes to its step 2. -/
theorem BlockEffect.samples {i : Instr} {p : Position} {l : Locals} {s t : State} (h : BlockEffect i p l s t) :
    (t.raw = s.raw ∧ t.cal = s.cal) ∨
    (i = .read ∧ t = (s.setSamples (burstWords l.b)
      (calibrate s.params (burstWords l.b) s.cfg.accelRange s.cfg.gyroRange)).succeedAt i p.initStep) ∨
    (Instr.isInit i = true ∧ stepsLeft i ⟨2, 0⟩ Locals.empty < stepsLeft i p l ∧
      t = s.clearSamples.running i ⟨2, 0⟩ Locals.empty) := by
  cases h with
  | updated u _ _ hu =>
    cases hu with
    | samples hi => exact .inr (.inl ⟨hi, rfl⟩)
    | accelRange | gyroRange | divider | nothing => exact .inl ⟨by simp, by simp⟩
  | initCleared hi hm => exact .inr (.inr ⟨hi, hm, rfl⟩)
  | found => exact .inl ⟨by simp, by simp⟩
  | none | addressed | notConfigured | answered | failed | scanStarted | scanEnded | notAcknowledged | notFound
  | initEntered | initDone => exact .inl ⟨rfl, rfl⟩

/-- INIT has more steps left than from the start of its scan at its steps 0 and 1 alone. -/
theorem initStep_le_one_of_stepsLeft {acc : AccelRange} {gyr : GyroRange} {d : Byte} {p : Position} {l : Locals}
    (h : stepsLeft (.init acc gyr d) ⟨2, 0⟩ Locals.empty < stepsLeft (.init acc gyr d) p l) : p.initStep ≤ 1 := by
  have hscan : scanLeft p.step l ≤ 274 := by fun_cases scanLeft p.step l <;> omega
  have henint : enintLeft p.step l ≤ 6 := by fun_cases enintLeft p.step l <;> omega
  by_contra hp
  have hlong : 274 < stepsLeft (.init acc gyr d) p l := h
  simp only [stepsLeft] at hlong
  split at hlong <;> omega

/-- INIT leaves its step 0 for its step 1 and does nothing else (R170). -/
theorem blockStep_of_init_zero {acc : AccelRange} {gyr : GyroRange} {d : Byte} {p : Position} {l : Locals} {s : State}
    (hs : s.seq = .run (.init acc gyr d) p l) (hp : p.initStep = 0) :
    blockStep s = s.running (.init acc gyr d) ⟨1, 0⟩ Locals.empty := by
  rw [blockStep_of_run hs]
  simp [commandStep, initStep, State.gotoInit, State.running, hs, hp]

/-- INIT clears the samples at its step 1 alone: step 0 leads elsewhere, and from step 2 on fewer steps are left. -/
theorem initStep_eq_one_of_clears {acc : AccelRange} {gyr : GyroRange} {d : Byte} {p : Position} {l : Locals}
    {s : State} (hs : s.seq = .run (.init acc gyr d) p l)
    (hm : stepsLeft (.init acc gyr d) ⟨2, 0⟩ Locals.empty < stepsLeft (.init acc gyr d) p l)
    (ht : blockStep s = s.clearSamples.running (.init acc gyr d) ⟨2, 0⟩ Locals.empty) : p.initStep = 1 := by
  have hle := initStep_le_one_of_stepsLeft hm
  have hne : p.initStep ≠ 0 := fun hzero => by
    simpa using congrArg State.seq (ht.symm.trans (blockStep_of_init_zero hs hzero))
  omega

/-- Settles O27: at a place of the pseudocode, a step that changes the files is READ's last or INIT's step 1. -/
theorem samplesChangeInTwoWays : Obligations.SamplesChangeInTwoWays := by
  intro s hsound
  cases hs : s.seq with
  | idle => exact .inl (by simp [blockStep_of_idle hs])
  | run i p l =>
    have hp : Position.legal i p := by
      simp only [State.SequencerSound, hs] at hsound
      exact hsound.1
    rcases (blockStep_effect hs hp).samples with hkeep | ⟨rfl, ht⟩ | ⟨hi, hm, ht⟩
    · exact .inl hkeep
    · rw [hp.initStep_eq_zero rfl, State.succeedAt_zero] at ht
      rw [ht]
      exact .inr (.inl ⟨p, l, rfl, rfl, rfl, burstWords_get l.b, rfl⟩)
    · cases i with
      | init acc gyr d =>
        have hone := initStep_eq_one_of_clears hs hm ht
        rw [ht]
        exact .inr (.inr ⟨acc, gyr, d, p, l, rfl, hone, Seven.get_replicate _, Seven.get_replicate _⟩)
      | setacc | setgyr | setdiv | wake | enint | find | read => cases hi

end Sys2Proof.Machine
end

section
/-! PROOFS. A step of the block issues at most one transaction (spec/10_state.md R33), at any place the sequencer
stands. -/

namespace Sys2Proof.Machine

/-- What the two transaction ports hold: the requests issued, the answers to come, and the count of the answers. -/
def State.traffic (s : State) : List Request × List Draw × Nat := (s.requests, s.answers, s.drawn)

namespace State

@[simp] theorem setAddress_traffic (a : Byte) (s : State) : (s.setAddress a).traffic = s.traffic := rfl
@[simp] theorem setAccelRange_traffic (r : AccelRange) (s : State) : (s.setAccelRange r).traffic = s.traffic := rfl
@[simp] theorem setGyroRange_traffic (r : GyroRange) (s : State) : (s.setGyroRange r).traffic = s.traffic := rfl
@[simp] theorem setDivider_traffic (d : Byte) (s : State) : (s.setDivider d).traffic = s.traffic := rfl
@[simp] theorem storeBurst_traffic (s : State) : s.storeBurst.traffic = s.traffic := rfl
@[simp] theorem clearSamples_traffic (s : State) : s.clearSamples.traffic = s.traffic := rfl
@[simp] theorem recordError_traffic (k : ErrorKind) (s : State) : (s.recordError k).traffic = s.traffic := rfl
@[simp] theorem endCommand_traffic (k : ErrorKind) (s : State) : (s.endCommand k).traffic = s.traffic := rfl
@[simp] theorem raise_traffic (k : ErrorKind) (s : State) : (s.raise k).traffic = s.traffic := rfl

@[simp] theorem goto_traffic (k : Nat) (s : State) : (s.goto k).traffic = s.traffic := by
  unfold goto
  split <;> rfl

@[simp] theorem gotoInit_traffic (k : Nat) (s : State) : (s.gotoInit k).traffic = s.traffic := by
  unfold gotoInit
  split <;> rfl

@[simp] theorem mapLocals_traffic (f : Locals → Locals) (s : State) : (s.mapLocals f).traffic = s.traffic := by
  unfold mapLocals
  split <;> rfl

@[simp] theorem succeed_traffic (s : State) : s.succeed.traffic = s.traffic := by
  unfold succeed
  split <;> simp

@[simp] theorem requireAddress_traffic (s : State) : s.requireAddress.traffic = s.traffic := by
  unfold requireAddress
  split <;> simp

theorem unlessFailed_traffic (st : Status) {go : State → State} (hgo : ∀ t, (go t).traffic = t.traffic) (s : State) :
    (s.unlessFailed st go).traffic = s.traffic := by
  unfold unlessFailed
  split
  · exact raise_traffic _ s
  · exact hgo s

theorem memWriteStep_traffic (reg v : Byte) (next : Nat) (s : State) :
    (s.memWriteStep reg v next).traffic = (s.issue (writeRequest s.cfg.address [reg, v])).traffic :=
  unlessFailed_traffic _ (goto_traffic next) _

theorem memReadStep_traffic (reg : Byte) (n : Nat) {go : List Byte → State → State}
    (hgo : ∀ b t, (go b t).traffic = t.traffic) (s : State) :
    ∃ r, (s.memReadStep reg n go).traffic = (s.issue r).traffic := by
  unfold memReadStep
  split
  · exact ⟨_, (unlessFailed_traffic _ (hgo _) _).trans (mapLocals_traffic _ _)⟩
  · exact ⟨_, unlessFailed_traffic _ (mapLocals_traffic _) _⟩

end State

/-- From `s` to `t` there has been no transaction, or one. -/
def AtMostOneTransaction (s t : State) : Prop := t.traffic = s.traffic ∨ ∃ r, t.traffic = (s.issue r).traffic

namespace AtMostOneTransaction

theorem memWriteStep (reg v : Byte) (next : Nat) (s : State) : AtMostOneTransaction s (s.memWriteStep reg v next) :=
  .inr ⟨_, s.memWriteStep_traffic reg v next⟩

theorem memReadStep (reg : Byte) (n next : Nat) (upd : List Byte → Locals → Locals) (s : State) :
    AtMostOneTransaction s (s.memReadStep reg n fun b t => (t.mapLocals (upd b)).goto next) :=
  .inr (s.memReadStep_traffic reg n fun b t => by simp)

/-- SETACC's, SETGYR's, SETDIV's and WAKE's steps, on their own or in INIT. -/
theorem singleWrite (f : State → State) {i : Instr} {j : Nat} {l : Locals} {s : State} {reg v : Byte}
    {upd : State → State}
    (h0 : f (State.running i ⟨j, 0⟩ l s) = (State.running i ⟨j, 0⟩ l s).requireAddress)
    (h1 : f (State.running i ⟨j, 1⟩ l s) = (State.running i ⟨j, 1⟩ l s).memWriteStep reg v 2)
    (h2 : f (State.running i ⟨j, 2⟩ l s) = (upd (State.running i ⟨j, 2⟩ l s)).succeed)
    (h3 : ∀ k, f (State.running i ⟨j, k + 3⟩ l s) = State.running i ⟨j, k + 3⟩ l s)
    (hupd : ∀ t, (upd t).traffic = t.traffic) (k : Nat) :
    AtMostOneTransaction (s.running i ⟨j, k⟩ l) (f (s.running i ⟨j, k⟩ l)) := by
  match k with
  | 0 => exact .inl (by rw [h0, State.requireAddress_traffic])
  | 1 => exact h1 ▸ memWriteStep reg v 2 _
  | 2 => exact .inl (by rw [h2, State.succeed_traffic, hupd])
  | k + 3 => exact .inl (by rw [h3])

theorem enintStep (s : State) : AtMostOneTransaction s (enintStep s) := by
  unfold Machine.enintStep
  split
  · exact .inl (by simp)
  · exact memWriteStep _ _ _ s
  · exact memReadStep _ _ _ (fun b l => { l with v := b.getD 0 0 }) s
  · exact memWriteStep _ _ _ s
  · exact .inl (by simp)
  · exact .inl rfl

theorem readStep (s : State) : AtMostOneTransaction s (readStep s) := by
  unfold Machine.readStep
  split
  · exact .inl (by simp)
  · exact memReadStep _ _ _ (fun b l => { l with b := b }) s
  · exact .inl (by simp)
  · exact .inl rfl

theorem scanStep (lo hi : Nat) (s : State) : AtMostOneTransaction s (scanStep lo hi s) := by
  unfold Machine.scanStep
  split
  · exact .inl (by simp)
  · split
    · exact .inl (by simp)
    · refine .inr ⟨probeRequest s.seq.locals.scanAddress, ?_⟩
      dsimp only
      split <;> simp
  · exact .inl (by simp)
  · exact .inl rfl

theorem initStep (acc : AccelRange) (gyr : GyroRange) (d : Byte) (i : Instr) (j k : Nat) (l : Locals) (s : State) :
    AtMostOneTransaction (s.running i ⟨j, k⟩ l) (initStep acc gyr d (s.running i ⟨j, k⟩ l)) := by
  match j with
  | 0 => exact .inl (State.gotoInit_traffic 1 _)
  | 1 => exact .inl ((State.gotoInit_traffic 2 _).trans (State.clearSamples_traffic _))
  | 2 => exact scanStep _ _ _
  | 3 => exact singleWrite wakeStep rfl rfl (upd := id) rfl (fun _ => rfl) (fun _ => rfl) k
  | 4 => exact singleWrite (setaccStep acc) rfl rfl rfl (fun _ => rfl) (State.setAccelRange_traffic acc) k
  | 5 => exact singleWrite (setgyrStep gyr) rfl rfl rfl (fun _ => rfl) (State.setGyroRange_traffic gyr) k
  | 6 => exact singleWrite (setdivStep d) rfl rfl rfl (fun _ => rfl) (State.setDivider_traffic d) k
  | 7 => exact enintStep _
  | 8 => exact .inl (State.succeed_traffic _)
  | j + 9 => exact .inl rfl

theorem commandStep (i : Instr) (p : Position) (l : Locals) (s : State) :
    AtMostOneTransaction (s.running i p l) (commandStep i (s.running i p l)) := by
  obtain ⟨j, k⟩ := p
  cases i with
  | setacc acc => exact singleWrite (setaccStep acc) rfl rfl rfl (fun _ => rfl) (State.setAccelRange_traffic acc) k
  | setgyr gyr => exact singleWrite (setgyrStep gyr) rfl rfl rfl (fun _ => rfl) (State.setGyroRange_traffic gyr) k
  | setdiv d => exact singleWrite (setdivStep d) rfl rfl rfl (fun _ => rfl) (State.setDivider_traffic d) k
  | wake => exact singleWrite wakeStep rfl rfl (upd := id) rfl (fun _ => rfl) (fun _ => rfl) k
  | enint => exact enintStep _
  | find first last => exact scanStep _ _ _
  | init acc gyr d => exact initStep acc gyr d _ j k l s
  | read => exact readStep _

theorem blockStep (s : State) : AtMostOneTransaction s (blockStep s) := by
  cases hs : s.seq with
  | idle => exact .inl (by rw [blockStep_of_idle hs])
  | run i p l =>
    have h := commandStep i p l s
    rwa [← State.eq_running hs, ← blockStep_of_run hs] at h

end AtMostOneTransaction

/-- Settles O39: whatever command runs, at whatever place, its step is internal work or one transaction. -/
theorem blockStepIssuesAtMostOneTransaction : Obligations.BlockStepIssuesAtMostOneTransaction := by
  intro s
  simpa [AtMostOneTransaction, State.traffic, State.issue] using AtMostOneTransaction.blockStep s

end Sys2Proof.Machine
end

section
/-! PROOFS. The block invariant (`BlockInv`, Safety.lean): every step of the block keeps it (spec/20_memory.md R61 to
R76, spec/10_state.md R31 to R33), so every command and every step of the machine does. -/

namespace Sys2Proof.Machine

/-! ### Messages and the wire contract -/

namespace State

variable {s t : State}

theorem Sound.withResult (k : ErrorKind) (h : s.Sound) : (s.withResult k).Sound := ⟨rfl, h.2⟩

theorem Sound.recordError (k : ErrorKind) (h : s.Sound) : (s.recordError k).Sound := ⟨rfl, h.2⟩

theorem Sound.afterRequest {r : Request} (hr : r.meetsWireContract = true) (h : s.Sound) :
    (s.afterRequests [r]).Sound := by
  obtain ⟨hmsg, hrequests⟩ := h
  refine ⟨hmsg, fun r' hr' => ?_⟩
  rcases List.mem_append.1 hr' with hold | hnew
  · exact hrequests r' hold
  · rwa [List.mem_singleton.1 hnew]

theorem Sound.succeedAt (i : Instr) (j : Nat) (h : s.Sound) : (s.succeedAt i j).Sound := by
  unfold State.succeedAt
  split
  · exact h.recordError _
  · exact h.withResult _

theorem Sound.bodyUpdate {i : Instr} {p : Position} {l : Locals} (hu : BodyUpdate i p l s t) (h : s.Sound) : t.Sound := by
  cases hu with
  | accelRange | gyroRange | divider | nothing | samples => exact h

end State

/-- Where the sequencer stands soundly, a step keeps messages right and issues only requests of the wire contract. -/
theorem BlockEffect.sound {i : Instr} {p : Position} {l : Locals} {s t : State} (h : BlockEffect i p l s t)
    (hs : s.Sound) (hq : (s.running i p l).SequencerSound) : t.Sound := by
  obtain ⟨hp, haddress, hscan⟩ := hq
  cases h with
  | none hn => exact absurd hp hn
  | addressed | scanStarted | scanEnded | initEntered => exact hs
  | notConfigured | notFound | initDone => exact hs.withResult _
  | answered r k m hb h1 hr => exact hs.afterRequest (hr (haddress hb h1))
  | failed r e hb h1 hr => exact (hs.afterRequest (hr (haddress hb h1))).withResult _
  | updated u _ _ hu => exact (hs.bodyUpdate hu).succeedAt _ _
  | found hb h1 he => exact State.Sound.succeedAt _ _ (hs.afterRequest (probeOf_meetsWireContract (hscan hb h1 he)))
  | notAcknowledged hi hb h1 he => exact hs.afterRequest (probeOf_meetsWireContract (hscan hb h1 he))
  | initCleared => exact hs.recordError _

/-! ### The sequencer's place -/

/-- No body is both a scan and a register command's. -/
theorem Position.inScan.not_inRegisterBody {i : Instr} {p : Position} (h : Position.inScan i p) :
    ¬ Position.inRegisterBody i p := by
  cases i with
  | find => exact id
  | init acc gyr d =>
    have h2 : p.initStep = 2 := h
    rintro ⟨h3, -⟩
    omega
  | setacc | setgyr | setdiv | wake | enint | read => exact h.elim

namespace State

variable {i : Instr} {p : Position} {l : Locals} {s : State}

theorem SequencerSound.legal (h : s.SequencerSound) (hs : s.seq = .run i p l) : Position.legal i p := by
  rw [eq_running hs] at h
  exact h.1

theorem sequencerSound_of_idle (hs : s.seq = .idle) : s.SequencerSound := by simp [SequencerSound, hs]

/-- A body's first step asks for nothing but its place in the pseudocode. -/
theorem sequencerSound_running_zero {j : Nat} (hp : Position.legal i ⟨j, 0⟩) :
    (s.running i ⟨j, 0⟩ l).SequencerSound :=
  ⟨hp, fun _ h1 => absurd h1 (Nat.not_succ_le_zero 0), fun _ h1 => absurd h1 Nat.zero_ne_one⟩

theorem sequencerSound_running_of_address (hb : Position.inRegisterBody i p) (hp : Position.legal i p)
    (ha : s.cfg.address ≠ 0) : (s.running i p l).SequencerSound :=
  ⟨hp, fun _ _ => ha, fun hscan => absurd hb hscan.not_inRegisterBody⟩

theorem sequencerSound_running_of_scanAddress (hb : Position.inScan i p) (hp : Position.legal i p)
    (ha : p.step = 1 → l.scanEnded = false → l.scanAddress ≠ 0) : (s.running i p l).SequencerSound :=
  ⟨hp, fun hreg => absurd hreg hb.not_inRegisterBody, fun _ => ha⟩

theorem sequencerSound_succeedAt {j : Nat} (hp : 2 ≤ j ∧ j ≤ 7 → Position.legal i ⟨j + 1, 0⟩) :
    (s.succeedAt i j).SequencerSound := by
  unfold succeedAt
  split
  · next hj => exact sequencerSound_running_zero (hp hj)
  · exact sequencerSound_of_idle rfl

end State

theorem BlockEffect.sequencerSound {i : Instr} {p : Position} {l : Locals} {s t : State} (h : BlockEffect i p l s t)
    (hq : (s.running i p l).SequencerSound) : t.SequencerSound := by
  obtain ⟨hp, haddress, -⟩ := hq
  cases h with
  | none hn => exact absurd hp hn
  | notConfigured | failed | notFound | initDone => exact State.sequencerSound_of_idle rfl
  | addressed hb _ ha hq => exact State.sequencerSound_running_of_address hb hq ha
  | answered r k m hb h1 _ _ _ hq => exact State.sequencerSound_running_of_address hb hq (haddress hb h1)
  | updated _ _ _ _ hn | found _ _ _ _ hn => exact State.sequencerSound_succeedAt fun hj => (hn hj).1
  | scanStarted a e hb ha hq => exact State.sequencerSound_running_of_scanAddress hb hq fun _ _ => ha
  | scanEnded hb _ _ hq =>
    exact State.sequencerSound_running_of_scanAddress hb hq fun (h2 : 2 = 1) => absurd h2 (by decide)
  | notAcknowledged hi hb _ he _ hhi =>
    exact State.sequencerSound_running_of_scanAddress hb hp fun _ hnext => scanAddress_nextAddress_ne_zero hhi hnext he
  | initEntered hi | initCleared hi =>
    exact State.sequencerSound_running_zero (Position.legal_init_of_le hi (by omega))

/-- Settles O37: an Idle block does nothing, and a running one does what `BlockEffect` allows. -/
theorem blockStepKeepsInvariant : Obligations.BlockStepKeepsInvariant := by
  intro s ⟨hsound, hseq⟩
  cases hs : s.seq with
  | idle =>
    rw [blockStep_of_idle hs]
    exact ⟨hsound, hseq⟩
  | run i p l =>
    have heffect := blockStep_effect hs (hseq.legal hs)
    rw [State.eq_running hs] at hseq
    exact ⟨heffect.sound hsound hseq, heffect.sequencerSound hseq⟩

/-! ### From the block's steps to the machine's -/

/-- What every step of the block keeps at a place of command `i`'s pseudocode, running `i` on keeps. -/
theorem State.OnCourse.untilIdle_induction {i : Instr} {s : State} {P : State → Prop} (hc : s.OnCourse i) (hs : P s)
    (step : ∀ p l u, u.seq = .run i p l → Position.legal i p → P u → P (Machine.blockStep u)) (n : Nat) :
    P (untilIdle n (commandStep i) s) := by
  refine (untilIdle_keeps (P := fun u => u.OnCourse i ∧ P u) (fun u hu ⟨hcourse, hP⟩ => ?_) n s ⟨hc, hs⟩).2
  rw [hcourse.commandStep_eq_blockStep hu]
  refine ⟨hcourse.blockStep, ?_⟩
  rcases hcourse with hi | ⟨p, l, hrun, hp⟩
  · exact absurd hi hu
  · exact step p l u hrun hp hP

/-- What a step of the machine does where it answers a next state: it waits, it accepts a command and runs it, or
it carries on the command that is running. -/
theorem step_next {s t : State} (h : step s = .next t) :
    t = s ∨
    (∃ i rest, s.seq = .idle ∧
      t = untilIdle stepBound (commandStep i) (State.running i ⟨0, 0⟩ Locals.empty { s with commands := rest })) ∨
    ∃ i p l, s.seq = .run i p l ∧ t = untilIdle stepBound (commandStep i) s := by
  unfold step at h
  split at h
  · next i p l hs =>
    unfold resume at h
    dsimp only at h
    split at h
    · exact .inr (.inr ⟨i, p, l, hs, (Host.Outcome.next.inj h).symm⟩)
    · cases h
  · next hs =>
    split at h
    · exact .inl (Host.Outcome.next.inj h).symm
    · split at h
      · next i _ =>
        rw [exec_eq_runCommand] at h
        exact .inr (.inl ⟨i, _, hs, (runCommand_next h).2⟩)
      · cases h

/-- What holds when a command is accepted and is kept by every step of the block, every step of the machine keeps. -/
theorem step_induction {s t : State} {P : State → Prop} (h : step s = .next t) (hsound : s.SequencerSound) (hs : P s)
    (accept : ∀ i rest, s.seq = .idle → P (State.running i ⟨0, 0⟩ Locals.empty { s with commands := rest }))
    (block : ∀ i p l u, u.seq = .run i p l → Position.legal i p → P u → P (blockStep u)) : P t := by
  rcases step_next h with rfl | ⟨i, rest, hidle, rfl⟩ | ⟨i, p, l, hrun, rfl⟩
  · exact hs
  · exact (State.onCourse_running (Position.legal_zero i) _ _).untilIdle_induction (accept i rest hidle) (block i) _
  · exact State.OnCourse.untilIdle_induction (.inr ⟨p, l, hrun, hsound.legal hrun⟩) hs (block i) _

/-- Settles O36: acceptance starts a command at its step 0, and the block's steps keep the invariant (O37). -/
theorem stepKeepsBlockInvariant : Obligations.StepKeepsBlockInvariant := by
  intro s t hinv h
  obtain ⟨hsound, hseq⟩ := hinv
  exact step_induction h hseq ⟨hsound, hseq⟩
    (fun i _ _ => ⟨hsound, State.sequencerSound_running_zero (Position.legal_zero i)⟩)
    fun _ _ _ u _ _ hu => blockStepKeepsInvariant u hu

end Sys2Proof.Machine
end

section
/-! PROOFS. What ENINT writes back to register 0x37 (spec/20_memory.md R66). -/

namespace Sys2Proof.Machine

/-- ENINT with every answer `Ok` (R131). -/
theorem exec_enint_of_ok {s : State} (hs : s.seq = .idle) (ha : s.cfg.address ≠ 0) (hok : ∀ j, j < 4 → s.statusAt j = .ok) :
    exec .enint s = .next (State.withResult .noError
      (s.afterRequests (enintRequests s.cfg.address ((s.bytesAt 2 1).getD 0 0)))) := by
  have hbody := (enint_body (f := enintStep) (i := .enint) (j := 0) (fun _ _ _ => rfl) 294 Locals.empty rfl s ha).1 hok
  rw [State.succeedAt_zero, untilIdle_withResult] at hbody
  rw [exec_eq_runCommand, runCommand_idle _ _ hs]
  exact congrArg _ hbody

/-- A read of one byte answers one byte (R71(b)). -/
theorem State.bytesAt_one (k : Nat) (s : State) : s.bytesAt k 1 = [(s.bytesAt k 1).getD 0 0] := by
  obtain ⟨v, hv⟩ := List.length_eq_one_iff.1 (s.length_bytesAt k 1)
  simp [hv]

/-- Or-ing in the latch mask sets bit 4. -/
theorem getLsbD_or_latch_four (v : Byte) : (v ||| 0x10).getLsbD 4 = true := by simp

/-- Or-ing in the latch mask keeps every other bit. -/
theorem getLsbD_or_latch_of_ne (v : Byte) {n : Nat} (hn : n ≠ 4) : (v ||| 0x10).getLsbD n = v.getLsbD n := by
  have hmask : (0x10 : Byte).getLsbD n = false := by
    rw [show (0x10 : Byte) = BitVec.twoPow 8 4 from rfl, BitVec.getLsbD_twoPow]
    simp [hn.symm]
  rw [BitVec.getLsbD_or, hmask, Bool.or_false]

/-- Settles O21: ENINT's last request writes back the byte read, or-ed with the latch mask. -/
theorem enintChangesOnlyTheLatchBit : Obligations.EnintChangesOnlyTheLatchBit := by
  intro s hs ha hok
  refine ⟨_, (s.bytesAt 2 1).getD 0 0, _, exec_enint_of_ok hs ha hok, s.bytesAt_one 2, ?_,
    getLsbD_or_latch_four _, fun n hn => getLsbD_or_latch_of_ne _ hn⟩
  simp [enintRequests]

end Sys2Proof.Machine
end

section
/-! PROOFS. The values a command may leave in the ranges and the divider (spec/10_state.md R23 to R25). -/

namespace Sys2Proof.Machine

@[simp] theorem State.succeedAt_cfg (i : Instr) (j : Nat) (s : State) : (s.succeedAt i j).cfg = s.cfg := by
  unfold succeedAt
  split <;> rfl

/-- A step keeps the configuration, or makes a register body's update, or sets the address a scan stands at. -/
theorem BlockEffect.cfg {i : Instr} {p : Position} {l : Locals} {s t : State} (h : BlockEffect i p l s t) :
    t.cfg = s.cfg ∨ (∃ u, BodyUpdate i p l s u ∧ t.cfg = u.cfg) ∨
    (Position.inScan i p ∧ p.step = 1 ∧ l.scanEnded = false ∧ t.cfg = { s.cfg with address := l.scanAddress }) := by
  cases h with
  | updated u _ _ hu => exact .inr (.inl ⟨u, hu, State.succeedAt_cfg _ _ _⟩)
  | found hb h1 he => exact .inr (.inr ⟨hb, h1, he, State.succeedAt_cfg _ _ _⟩)
  | none | addressed | notConfigured | answered | failed | scanStarted | scanEnded | notAcknowledged | notFound
  | initEntered | initCleared | initDone => exact .inl rfl

/-- The accelerometer range a command sets, if any (R23). -/
def accelOperand : Instr → Option AccelRange
  | .setacc acc | .init acc _ _ => some acc
  | _ => none

/-- The gyroscope range a command sets, if any (R24). -/
def gyroOperand : Instr → Option GyroRange
  | .setgyr gyr | .init _ gyr _ => some gyr
  | _ => none

/-- The divider a command sets, if any (R25). -/
def dividerOperand : Instr → Option Byte
  | .setdiv d | .init _ _ d => some d
  | _ => none

/-- From `s` to `t` each range and the divider that command `i` sets has become its operand or kept its value. -/
structure HoldsOperandsOrOld (i : Instr) (s t : State) : Prop where
  accelRange : ∀ acc, accelOperand i = some acc → t.cfg.accelRange = acc ∨ t.cfg.accelRange = s.cfg.accelRange
  gyroRange : ∀ gyr, gyroOperand i = some gyr → t.cfg.gyroRange = gyr ∨ t.cfg.gyroRange = s.cfg.gyroRange
  divider : ∀ d, dividerOperand i = some d → t.cfg.divider = d ∨ t.cfg.divider = s.cfg.divider

namespace HoldsOperandsOrOld

variable {i : Instr} {s t u : State}

/-- The address is no matter here. -/
theorem of_cfg_eq {a : Byte} (h : t.cfg = { s.cfg with address := a }) : HoldsOperandsOrOld i s t :=
  ⟨fun _ _ => .inr (by rw [h]), fun _ _ => .inr (by rw [h]), fun _ _ => .inr (by rw [h])⟩

theorem trans (h : HoldsOperandsOrOld i s t) (h' : HoldsOperandsOrOld i t u) : HoldsOperandsOrOld i s u where
  accelRange acc hi := (h'.accelRange acc hi).elim .inl fun he => he ▸ h.accelRange acc hi
  gyroRange gyr hi := (h'.gyroRange gyr hi).elim .inl fun he => he ▸ h.gyroRange gyr hi
  divider d hi := (h'.divider d hi).elim .inl fun he => he ▸ h.divider d hi

theorem of_bodyUpdate {p : Position} {l : Locals} (h : BodyUpdate i p l s t) : HoldsOperandsOrOld i s t := by
  have same : HoldsOperandsOrOld i s s := of_cfg_eq rfl
  cases h with
  | accelRange acc hi =>
    refine { same with accelRange := fun acc' hacc' => .inl (Option.some.inj (Eq.trans ?_ hacc')) }
    rcases hi with rfl | ⟨_, _, rfl⟩ <;> rfl
  | gyroRange gyr hi =>
    refine { same with gyroRange := fun gyr' hgyr' => .inl (Option.some.inj (Eq.trans ?_ hgyr')) }
    rcases hi with rfl | ⟨_, _, rfl⟩ <;> rfl
  | divider d hi =>
    refine { same with divider := fun d' hd' => .inl (Option.some.inj (Eq.trans ?_ hd')) }
    rcases hi with rfl | ⟨_, _, rfl⟩ <;> rfl
  | nothing => exact same
  | samples => exact of_cfg_eq rfl

theorem of_blockEffect {p : Position} {l : Locals} (h : BlockEffect i p l s t) : HoldsOperandsOrOld i s t := by
  rcases h.cfg with hcfg | ⟨u, hu, hcfg⟩ | ⟨-, -, -, hcfg⟩
  · exact of_cfg_eq hcfg
  · exact (of_bodyUpdate hu).trans (of_cfg_eq hcfg)
  · exact of_cfg_eq hcfg

theorem of_exec (h : exec i s = .next t) : HoldsOperandsOrOld i s t :=
  exec_induction h (of_cfg_eq rfl) fun _ _ _ _ _ heffect hu => hu.trans (of_blockEffect heffect)

end HoldsOperandsOrOld

end Sys2Proof.Machine
end

section
/-! PROOFS. The addresses a scan may stand at and a command may leave in `cfg.address` (spec/10_state.md R22,
spec/41_discovery_init.md R161). -/

namespace Sys2Proof.Machine

theorem mem_addressSpan {lo hi : Nat} (hhi : hi ≤ 256) (a : Byte) :
    a ∈ addressSpan lo hi ↔ lo ≤ a.toNat ∧ a.toNat < hi := by
  simp only [addressSpan, List.mem_map, List.mem_range'_1]
  constructor
  · rintro ⟨n, hn, rfl⟩
    rw [BitVec.toNat_ofNat, Nat.mod_eq_of_lt (by omega)]
    omega
  · exact fun ha => ⟨a.toNat, by omega, BitVec.ofNat_toNat 8 a⟩

/-- The span of addresses a command scans, first and one past the last: none for a register command (R161, R174). -/
def scanSpan (mode : ScanMode) : Instr → Nat × Nat
  | .find first last => scanBounds mode first last
  | .init _ _ _ => (Config.initScanLo, Config.initScanHi)
  | _ => (0, 0)

/-- The addresses a command scans: FIND's and INIT's scan lists (R161, R174). -/
def scanAddresses (mode : ScanMode) (i : Instr) : List Byte := addressSpan (scanSpan mode i).1 (scanSpan mode i).2

theorem scanSpan_snd_le (mode : ScanMode) (i : Instr) : (scanSpan mode i).2 ≤ 256 := by
  cases i with
  | find first last => exact (scanBounds_le mode first last).2.2.trans (Nat.le_succ 255)
  | init | setacc | setgyr | setdiv | wake | enint | read => exact Nat.le_of_ble_eq_true rfl

/-- In a scan, a command's step is a step of the scan of its span (R160, R174). -/
theorem commandStep_of_inScan {i : Instr} {p : Position} (hb : Position.inScan i p) (l : Locals) (s : State) :
    commandStep i (s.running i p l) =
      scanStep (scanSpan s.params.scanMode i).1 (scanSpan s.params.scanMode i).2 (s.running i p l) := by
  cases i with
  | find => rfl
  | init acc gyr d =>
    have h2 : p.initStep = 2 := hb
    simp [commandStep, initStep, h2, scanSpan]
  | setacc | setgyr | setdiv | wake | enint | read => exact hb.elim

/-- A scan that has not ended stands at an address of the list. -/
def State.ScanWithin (addresses : List Byte) (s : State) : Prop :=
  match s.seq with
  | .idle => True
  | .run i p l => Position.inScan i p → p.step = 1 → l.scanEnded = false → l.scanAddress ∈ addresses

section Scan

variable {i : Instr} {p : Position} {l : Locals} {s t : State} {lo hi : Nat} {addresses : List Byte}

theorem scanWithin_of_idle (hs : s.seq = .idle) : s.ScanWithin addresses := by simp [State.ScanWithin, hs]

theorem scanWithin_running_of_step_ne_one (h : p.step ≠ 1) : (s.running i p l).ScanWithin addresses :=
  fun _ h1 => absurd h1 h

theorem scanWithin_running_of_not_inScan (h : ¬ Position.inScan i p) : (s.running i p l).ScanWithin addresses :=
  fun hb => absurd hb h

theorem scanWithin_succeedAt (j : Nat) : (s.succeedAt i j).ScanWithin addresses := by
  unfold State.succeedAt
  split
  · exact scanWithin_running_of_step_ne_one Nat.zero_ne_one
  · exact scanWithin_of_idle rfl

/-- The first address of a scan is of its span, unless the span is empty. -/
theorem first_mem_addressSpan (hhi : hi ≤ 256) (h : lo < hi) : BitVec.ofNat 8 lo ∈ addressSpan lo hi := by
  rw [mem_addressSpan hhi, BitVec.toNat_ofNat, Nat.mod_eq_of_lt (by omega)]
  omega

/-- The address after one of the span is of the span, unless the scan ends there. -/
theorem nextAddress_mem_addressSpan (hhi : hi ≤ 256) (ha : l.scanAddress ∈ addressSpan lo hi)
    (he : (l.nextAddress hi).scanEnded = false) : (l.nextAddress hi).scanAddress ∈ addressSpan lo hi := by
  rw [mem_addressSpan hhi] at ha ⊢
  unfold Locals.nextAddress at he ⊢
  split at he
  · next hlt =>
    have hnext : (l.scanAddress + 1).toNat = l.scanAddress.toNat + 1 := BitVec.toNat_add_of_lt (by simp; omega)
    rw [if_pos hlt, hnext]
    omega
  · cases he

/-- The scan's step 1: its end, an acknowledged probe, or one that is not (R160). -/
theorem scanStep_running_one (i : Instr) (j : Nat) (l : Locals) (s : State) :
    scanStep lo hi (s.running i ⟨j, 1⟩ l) =
      if l.scanEnded then s.running i ⟨j, 2⟩ l
      else if s.statusAt 0 = .ok then
        ((s.afterRequests [probeOf l.scanAddress]).setAddress l.scanAddress).succeedAt i j
      else (s.afterRequests [probeOf l.scanAddress]).running i ⟨j, 1⟩ (l.nextAddress hi) := by
  simp only [scanStep, State.running_seq, Sequencer.step_run, Sequencer.locals_run, State.draw_status,
    State.statusAt_running, State.issue_eq_afterRequests]
  rfl

theorem scanStep_scanWithin (hhi : hi ≤ 256) (hb : Position.inScan i p)
    (h : (s.running i p l).ScanWithin (addressSpan lo hi)) :
    (scanStep lo hi (s.running i p l)).ScanWithin (addressSpan lo hi) := by
  obtain ⟨j, k⟩ := p
  match k with
  | 0 => exact fun _ _ he => first_mem_addressSpan hhi (by simpa using he)
  | 1 =>
    rw [scanStep_running_one]
    split
    · exact scanWithin_running_of_step_ne_one (Nat.succ_ne_self 1)
    · next he =>
      split
      · exact scanWithin_succeedAt j
      · exact fun _ _ hnext => nextAddress_mem_addressSpan hhi (h hb rfl (by simpa using he)) hnext
  | 2 => exact scanWithin_of_idle rfl
  | k + 3 => exact h

/-- Outside a scan, a step leads to no scan part way. -/
theorem BlockEffect.scanWithin_of_not_inScan (h : BlockEffect i p l s t) (hn : ¬ Position.inScan i p) :
    t.ScanWithin addresses := by
  cases h with
  | none | addressed | answered => exact scanWithin_running_of_not_inScan hn
  | notConfigured | failed | notFound | initDone => exact scanWithin_of_idle rfl
  | updated => exact scanWithin_succeedAt _
  | initEntered | initCleared => exact scanWithin_running_of_step_ne_one Nat.zero_ne_one
  | scanStarted _ _ hb | scanEnded hb | found hb | notAcknowledged _ hb => exact absurd hb hn

theorem blockStep_scanWithin (hs : s.seq = .run i p l) (hp : Position.legal i p)
    (h : s.ScanWithin (scanAddresses s.params.scanMode i)) : (blockStep s).ScanWithin (scanAddresses s.params.scanMode i) := by
  by_cases hb : Position.inScan i p
  · have hstep := commandStep_of_inScan hb l s
    rw [State.eq_running hs] at h
    rw [← State.eq_running hs, ← blockStep_of_run hs] at hstep
    rw [hstep, State.eq_running hs]
    exact scanStep_scanWithin (scanSpan_snd_le _ _) hb h
  · exact (blockStep_effect hs hp).scanWithin_of_not_inScan hb

end Scan

theorem BodyUpdate.address {i : Instr} {p : Position} {l : Locals} {s t : State} (h : BodyUpdate i p l s t) :
    t.cfg.address = s.cfg.address := by
  cases h with
  | accelRange | gyroRange | divider | nothing | samples => rfl

/-- A step leaves in `cfg.address` the old value or the address at which the scan stands. -/
theorem blockStep_address {i : Instr} {p : Position} {l : Locals} {s : State} {addresses : List Byte}
    (hs : s.seq = .run i p l) (hp : Position.legal i p) (h : s.ScanWithin addresses) :
    (blockStep s).cfg.address ∈ addresses ∨ (blockStep s).cfg.address = s.cfg.address := by
  rw [State.eq_running hs] at h
  rcases (blockStep_effect hs hp).cfg with hcfg | ⟨u, hu, hcfg⟩ | ⟨hb, h1, he, hcfg⟩
  · exact .inr (by rw [hcfg])
  · exact .inr (by rw [hcfg, hu.address])
  · exact .inl (by rw [hcfg]; exact h hb h1 he)

/-- What command `i`, accepted in state `s`, has kept of its scan and of the address when it has come to state `u`. -/
structure ScanKept (i : Instr) (s u : State) : Prop where
  params : u.params = s.params
  within : u.ScanWithin (scanAddresses s.params.scanMode i)
  address : u.cfg.address ∈ scanAddresses s.params.scanMode i ∨ u.cfg.address = s.cfg.address

theorem ScanKept.blockStep {i : Instr} {p : Position} {l : Locals} {s u : State} (h : ScanKept i s u)
    (hu : u.seq = .run i p l) (hp : Position.legal i p) : ScanKept i s (blockStep u) where
  params := (WritesOnlyItsRegisters.of_blockEffect (blockStep_effect hu hp)).params.trans h.params
  within := by
    have hwithin := h.within
    rw [← h.params] at hwithin ⊢
    exact blockStep_scanWithin hu hp hwithin
  address := (blockStep_address hu hp h.within).elim .inl fun he => he ▸ h.address

/-- After a command the address is one that it scans, or the old one. -/
theorem exec_address {i : Instr} {s t : State} (h : exec i s = .next t) :
    t.cfg.address ∈ scanAddresses s.params.scanMode i ∨ t.cfg.address = s.cfg.address := by
  rw [exec_eq_runCommand] at h
  obtain ⟨-, rfl⟩ := runCommand_next h
  have hstart : ScanKept i s (s.running i ⟨0, 0⟩ Locals.empty) :=
    ⟨rfl, scanWithin_running_of_step_ne_one Nat.zero_ne_one, .inr rfl⟩
  exact ((State.onCourse_running (Position.legal_zero i) _ s).untilIdle_induction hstart
    (fun _ _ _ hu hp hkept => hkept.blockStep hu hp) _).address

end Sys2Proof.Machine
end

section
/-! PROOFS. The samples READ and INIT may leave (spec/10_state.md R27, spec/20_memory.md R77), and with them the values
a command may leave in all the registers it writes. -/

namespace Sys2Proof.Machine

/-- A register command begins with the check of the address (R120). -/
theorem commandStep_start_of_inRegisterBody {i : Instr} (hb : Position.inRegisterBody i ⟨0, 0⟩) (l : Locals)
    (s : State) : commandStep i (s.running i ⟨0, 0⟩ l) = (s.running i ⟨0, 0⟩ l).requireAddress := by
  cases i with
  | setacc | setgyr | setdiv | wake | enint | read => rfl
  | find => exact hb.elim
  | init => exact absurd hb.1 (Nat.not_succ_le_zero 2)

/-- A register command with the address unset (R252). -/
theorem exec_of_address_eq_zero {i : Instr} {s : State} (hs : s.seq = .idle)
    (hb : Position.inRegisterBody i ⟨0, 0⟩) (ha : s.cfg.address = 0) : exec i s = .next (s.withResult .notConfigured) := by
  rw [exec_eq_runCommand, runCommand_idle _ _ hs, stepBound, untilIdle_running, commandStep_start_of_inRegisterBody hb,
    State.requireAddress_running, if_pos ha, untilIdle_withResult]

/-- READ with the address set, by its two answers (R190). -/
theorem exec_read_of_address_ne_zero {s : State} (hs : s.seq = .idle) (ha : s.cfg.address ≠ 0) :
    exec .read s = .next (
      match failKind (s.statusAt 0) with
      | some k => (s.afterRequests [selectOf s.cfg.address 0x3B]).withResult k
      | none =>
        match failKind (s.statusAt 1) with
        | some k => (s.afterRequests [selectOf s.cfg.address 0x3B, readOf s.cfg.address 14]).withResult k
        | none => State.withResult .noError
            ((s.afterRequests [selectOf s.cfg.address 0x3B, readOf s.cfg.address 14]).setSamples
              (burstWords (s.bytesAt 1 14))
              (calibrate s.params (burstWords (s.bytesAt 1 14)) s.cfg.accelRange s.cfg.gyroRange))) := by
  have hbody := read_body (f := readStep) (i := .read) (j := 0) (fun _ _ _ => rfl) 296 Locals.empty rfl s ha
  simp only [State.succeedAt_zero, untilIdle_withResult] at hbody
  rw [exec_eq_runCommand, runCommand_idle _ _ hs]
  exact congrArg _ hbody

/-- After READ the samples are the old ones, or the burst's with their calibration (R77). -/
theorem exec_read_samples {s t : State} (h : exec .read s = .next t) :
    (t.raw = s.raw ∧ t.cal = s.cal) ∨
      (t.raw = burstWords (s.bytesAt 1 14) ∧
        t.cal = calibrate s.params (burstWords (s.bytesAt 1 14)) s.cfg.accelRange s.cfg.gyroRange) := by
  have hs : s.seq = .idle := (runCommand_next h).1
  by_cases ha : s.cfg.address = 0
  · obtain rfl := Host.Outcome.next.inj ((exec_of_address_eq_zero (i := .read) hs trivial ha).symm.trans h)
    exact .inl ⟨rfl, rfl⟩
  · obtain rfl := Host.Outcome.next.inj ((exec_read_of_address_ne_zero hs ha).symm.trans h)
    split
    · exact .inl ⟨rfl, rfl⟩
    · split
      · exact .inl ⟨rfl, rfl⟩
      · exact .inr ⟨rfl, rfl⟩

/-- INIT clears the samples before its scan (R171). -/
theorem exec_init_eq {s t : State} {acc : AccelRange} {gyr : GyroRange} {d : Byte}
    (h : exec (.init acc gyr d) s = .next t) :
    t = untilIdle 298 (commandStep (.init acc gyr d)) (s.clearSamples.running (.init acc gyr d) ⟨2, 0⟩ Locals.empty) := by
  obtain ⟨-, rfl⟩ := runCommand_next h
  rw [stepBound, untilIdle_running]
  exact untilIdle_running 298 _ _ ⟨1, 0⟩ Locals.empty s

/-- After INIT the samples are zero: it clears them, and no later step of it writes any others. -/
theorem exec_init_samples {s t : State} {acc : AccelRange} {gyr : GyroRange} {d : Byte}
    (h : exec (.init acc gyr d) s = .next t) : t.raw = Seven.replicate 0 ∧ t.cal = Seven.replicate 0 := by
  rw [exec_init_eq h]
  refine State.OnCourse.untilIdle_induction (P := fun u => u.raw = Seven.replicate 0 ∧ u.cal = Seven.replicate 0)
    (State.onCourse_running (Position.legal_init_of_le rfl (by decide)) _ _) ⟨rfl, rfl⟩ ?_ _
  intro p l u hu hp hzero
  rcases (blockStep_effect hu hp).samples with ⟨hraw, hcal⟩ | ⟨hread, -⟩ | ⟨-, -, ht⟩
  · rwa [hraw, hcal]
  · cases hread
  · rw [ht]
    exact ⟨rfl, rfl⟩

/-- Settles O34: the fields by their operands, the address by the scan, the samples by READ's and INIT's own rules. -/
theorem writtenRegistersHoldOperandOrOldValue : Obligations.WrittenRegistersHoldOperandOrOldValue := by
  intro s t
  refine ⟨fun acc h => ?_, fun gyr h => ?_, fun d h => ?_, fun a b h => ?_, exec_read_samples, fun acc gyr d h => ?_⟩
  · exact (HoldsOperandsOrOld.of_exec h).accelRange acc rfl
  · exact (HoldsOperandsOrOld.of_exec h).gyroRange gyr rfl
  · exact (HoldsOperandsOrOld.of_exec h).divider d rfl
  · exact exec_address h
  · obtain ⟨accelRange, gyroRange, divider⟩ := HoldsOperandsOrOld.of_exec h
    obtain ⟨hraw, hcal⟩ := exec_init_samples h
    exact ⟨hraw, hcal, accelRange acc rfl, gyroRange gyr rfl, divider d rfl, exec_address h⟩

end Sys2Proof.Machine
end

section
/-! PROOFS. The commands that write one register: SETACC, SETGYR, SETDIV and WAKE (spec/40_config_encoder.md §2 to §5). -/

namespace Sys2Proof.Machine

/-- The common shape of R122, R124, R126 and R129: command `i` checks the address, writes `v` to `reg` and makes the
update `upd` as it succeeds. -/
structure WritesOneRegister (i : Instr) (reg v : Byte) (upd : State → State) : Prop where
  register : Position.inRegisterBody i ⟨0, 0⟩
  write : ∀ t l, commandStep i (State.running i ⟨0, 1⟩ l t) = (State.running i ⟨0, 1⟩ l t).memWriteStep reg v 2
  update : ∀ t l, commandStep i (State.running i ⟨0, 2⟩ l t) = ((upd t).running i ⟨0, 2⟩ l).succeed

/-- Such a command, whole: refused with the address unset, else by the answer to its one transaction. -/
theorem WritesOneRegister.exec {i : Instr} {reg v : Byte} {upd : State → State} (h : WritesOneRegister i reg v upd)
    {s : State} (hs : s.seq = .idle) :
    (s.cfg.address = 0 → exec i s = .next (s.withResult .notConfigured)) ∧
    (s.cfg.address ≠ 0 → s.statusAt 0 = .ok →
      exec i s = .next (State.withResult .noError (upd (s.afterRequests [writeOf s.cfg.address reg v])))) ∧
    ∀ k, s.cfg.address ≠ 0 → failKind (s.statusAt 0) = some k →
      exec i s = .next (State.withResult k (s.afterRequests [writeOf s.cfg.address reg v])) := by
  have hbody := singleWrite_body (fun t l => commandStep_start_of_inRegisterBody h.register l t) h.write h.update
    297 Locals.empty s
  refine ⟨exec_of_address_eq_zero hs h.register, fun ha hok => ?_, fun k ha hk => ?_⟩
  · rw [exec_eq_runCommand, runCommand_idle _ _ hs, stepBound, hbody, if_neg ha, hok]
    exact congrArg _ (untilIdle_withResult _ _ _ _)
  · rw [exec_eq_runCommand, runCommand_idle _ _ hs, stepBound, hbody, if_neg ha, hk]

theorem setacc_writesOneRegister (acc : AccelRange) :
    WritesOneRegister (.setacc acc) 0x1C (acc.code.zeroExtend 8 <<< 3) (State.setAccelRange acc) :=
  ⟨trivial, fun _ _ => rfl, fun _ _ => rfl⟩

theorem setgyr_writesOneRegister (gyr : GyroRange) :
    WritesOneRegister (.setgyr gyr) 0x1B (gyr.code.zeroExtend 8 <<< 3) (State.setGyroRange gyr) :=
  ⟨trivial, fun _ _ => rfl, fun _ _ => rfl⟩

theorem setdiv_writesOneRegister (d : Byte) : WritesOneRegister (.setdiv d) 0x19 d (State.setDivider d) :=
  ⟨trivial, fun _ _ => rfl, fun _ _ => rfl⟩

theorem wake_writesOneRegister : WritesOneRegister .wake 0x6B 0x00 id :=
  ⟨trivial, fun _ _ => rfl, fun _ _ => rfl⟩

/-- R106: SETACC's word holds the code of its range in operand A. -/
theorem encode_setacc (acc : AccelRange) : encode (.setacc acc) = 0x00000001 + (acc.code.zeroExtend 32 <<< 8) := by
  cases acc <;> rfl

/-- R106: SETGYR's word holds the code of its range in operand A. -/
theorem encode_setgyr (gyr : GyroRange) : encode (.setgyr gyr) = 0x00000002 + (gyr.code.zeroExtend 32 <<< 8) := by
  cases gyr <;> rfl

/-- Settles O16: SETACC writes one register, and its update is of the accelerometer range. -/
theorem setaccFollowsItsRule : Obligations.SetaccFollowsItsRule :=
  ⟨encode_setacc, fun _ acc hs => (setacc_writesOneRegister acc).exec hs⟩

/-- Settles O17: SETGYR writes one register, and its update is of the gyroscope range. -/
theorem setgyrFollowsItsRule : Obligations.SetgyrFollowsItsRule :=
  ⟨encode_setgyr, fun _ gyr hs => (setgyr_writesOneRegister gyr).exec hs⟩

/-- Settles O18: SETDIV writes one register, and its update is of the divider. -/
theorem setdivFollowsItsRule : Obligations.SetdivFollowsItsRule := fun _ d hs => (setdiv_writesOneRegister d).exec hs

/-- Settles O19: WAKE writes one register and updates nothing. -/
theorem wakeFollowsItsRule : Obligations.WakeFollowsItsRule := ⟨rfl, fun _ hs => wake_writesOneRegister.exec hs⟩

end Sys2Proof.Machine
end

section
/-! PROOFS. ENINT, whole (spec/40_config_encoder.md §6). -/

namespace Sys2Proof.Machine

/-- ENINT whose answer `j` is the first that is not `Ok` (R131). -/
theorem exec_enint_of_failed {s : State} (hs : s.seq = .idle) (ha : s.cfg.address ≠ 0) {j : Nat} {k : ErrorKind}
    (hj : j < 4) (hok : ∀ m, m < j → s.statusAt m = .ok) (hk : failKind (s.statusAt j) = some k) :
    exec .enint s = .next (State.withResult k
      (s.afterRequests ((enintRequests s.cfg.address ((s.bytesAt 2 1).getD 0 0)).take (j + 1)))) := by
  obtain ⟨-, hfailed⟩ :=
    enint_body (f := enintStep) (i := .enint) (j := 0) (fun _ _ _ => rfl) 294 Locals.empty rfl s ha
  rw [exec_eq_runCommand, runCommand_idle _ _ hs]
  exact congrArg _ (hfailed j k hj hok hk)

/-- Settles O20: by the check of the address and then by the first answer, if any, that is not `Ok`. -/
theorem enintFollowsItsRule : Obligations.EnintFollowsItsRule := fun _ hs =>
  ⟨exec_of_address_eq_zero hs trivial, exec_enint_of_ok hs,
    fun _ _ ha hj hok hk => exec_enint_of_failed hs ha hj hok hk⟩

end Sys2Proof.Machine
end

section
/-! PROOFS. A command other than INIT changes `cfg`, `raw` and `cal` only as it succeeds (spec/40_config_encoder.md
R121, spec/41_discovery_init.md R163, spec/42_acquisition.md R192). -/

namespace Sys2Proof.Machine

/-- `t` holds `s`'s registers, or a command has ended there with NoError. -/
def KeptOrSucceeded (s t : State) : Prop :=
  (t.cfg = s.cfg ∧ t.raw = s.raw ∧ t.cal = s.cal) ∨ (t.seq = .idle ∧ t.err.kind = .noError)

theorem Instr.isInit_eq_false {i : Instr} (hi : ∀ acc gyr d, i ≠ .init acc gyr d) : Instr.isInit i = false := by
  cases i with
  | init acc gyr d => exact absurd rfl (hi acc gyr d)
  | setacc | setgyr | setdiv | wake | enint | find | read => rfl

/-- Outside INIT `succeed()` ends the command, and the two steps that write a register are those that succeed. -/
theorem BlockEffect.keptOrSucceeded {i : Instr} {p : Position} {l : Locals} {s t : State} (h : BlockEffect i p l s t)
    (hp : Position.legal i p) (hi : Instr.isInit i = false) : KeptOrSucceeded s t := by
  cases h with
  | updated | found =>
    rw [hp.initStep_eq_zero hi, State.succeedAt_zero]
    exact .inr ⟨rfl, rfl⟩
  | initCleared hinit => exact absurd hinit (by simp [hi])
  | none | addressed | notConfigured | answered | failed | scanStarted | scanEnded | notAcknowledged | notFound
  | initEntered | initDone => exact .inl ⟨rfl, rfl, rfl⟩

/-- A running command has not ended, so up to here it has kept the registers. -/
theorem KeptOrSucceeded.blockStep {i : Instr} {p : Position} {l : Locals} {s u : State} (h : KeptOrSucceeded s u)
    (hu : u.seq = .run i p l) (hp : Position.legal i p) (hi : Instr.isInit i = false) :
    KeptOrSucceeded s (blockStep u) := by
  rcases h with ⟨hcfg, hraw, hcal⟩ | ⟨hidle, -⟩
  · have hstep := (blockStep_effect hu hp).keptOrSucceeded hp hi
    rwa [KeptOrSucceeded, hcfg, hraw, hcal] at hstep
  · rw [hu] at hidle
    cases hidle

theorem exec_keptOrSucceeded {i : Instr} {s t : State} (hi : Instr.isInit i = false) (h : exec i s = .next t) :
    KeptOrSucceeded s t := by
  rw [exec_eq_runCommand] at h
  obtain ⟨-, rfl⟩ := runCommand_next h
  have hstart : KeptOrSucceeded s (s.running i ⟨0, 0⟩ Locals.empty) := .inl ⟨rfl, rfl, rfl⟩
  exact (State.onCourse_running (Position.legal_zero i) _ s).untilIdle_induction hstart
    (fun _ _ _ hu hp hkept => hkept.blockStep hu hp hi) _

/-- Settles O31: a command that has changed a register has succeeded, and then `err` holds NoError. -/
theorem failedCommandKeepsRegisters : Obligations.FailedCommandKeepsRegisters := by
  intro s t i hi h herr
  rcases exec_keptOrSucceeded (Instr.isInit_eq_false hi) h with hkept | ⟨-, hsucceeded⟩
  · exact hkept
  · exact absurd hsucceeded herr

end Sys2Proof.Machine
end

section
/-! PROOFS. INIT's scan list, and what a whole scan does from its first step (spec/41_discovery_init.md R160, R161,
R174). -/

namespace Sys2Proof.Machine

theorem getElem?_addressSpan {lo hi k : Nat} (hk : k < hi - lo) :
    (addressSpan lo hi)[k]? = some (BitVec.ofNat 8 (lo + k)) := by
  simp [addressSpan, hk]

/-- Settles O24: the list is the span from 1 up to but not including 255. -/
theorem initScansAllAddresses : Obligations.InitScansAllAddresses := by
  refine ⟨length_addressSpan _ _, fun k hk => ?_⟩
  rw [Nat.add_comm]
  exact getElem?_addressSpan hk

theorem lt_of_mem_addressSpan {lo hi : Nat} {x : Byte} (hx : x ∈ addressSpan lo hi) : lo < hi := by
  by_contra hge
  rw [addressSpan_of_le (by omega)] at hx
  cases hx

section Scan

variable {f : State → State} {i : Instr} {j lo hi : Nat}

/-- A whole scan whose first acknowledged address is `x`. -/
theorem scan_body_acknowledged
    (hf : ∀ k t l, f (State.running i ⟨j, k⟩ l t) = scanStep lo hi (State.running i ⟨j, k⟩ l t)) (hhi : hi ≤ 256)
    {before after : List Byte} {x : Byte} (hspan : addressSpan lo hi = before ++ x :: after) {s : State}
    (hno : ∀ m, m < before.length → s.statusAt m ≠ .ok) (hok : s.statusAt before.length = .ok) (l : Locals) (n : Nat) :
    untilIdle (before.length + 2 + n) f (s.running i ⟨j, 0⟩ l) =
      untilIdle n f (((s.afterRequests ((before ++ [x]).map probeOf)).setAddress x).succeedAt i j) := by
  have hlt : lo < hi := lt_of_mem_addressSpan (x := x) (by simp [hspan])
  have hfuel : before.length + 2 + n = before.length + 1 + n + 1 := by omega
  rw [hfuel, scan_start hf]
  exact scan_acknowledged hf hhi n before lo s _ x after hspan rfl (decide_eq_false (by omega)) hno hok

/-- A whole scan that no address acknowledges. -/
theorem scan_body_exhausted
    (hf : ∀ k t l, f (State.running i ⟨j, k⟩ l t) = scanStep lo hi (State.running i ⟨j, k⟩ l t)) (hhi : hi ≤ 256)
    {s : State} (hno : ∀ m, m < hi - lo → s.statusAt m ≠ .ok) (l : Locals) (n : Nat) :
    untilIdle (hi - lo + 3 + n) f (s.running i ⟨j, 0⟩ l) =
      (s.afterRequests ((addressSpan lo hi).map probeOf)).withResult .deviceNotFound := by
  have hfuel : hi - lo + 3 + n = hi - lo + 2 + n + 1 := by omega
  rw [hfuel, scan_start hf]
  exact scan_exhausted hf hhi n (hi - lo) lo s _ rfl rfl rfl hno

end Scan

end Sys2Proof.Machine
end

section
/-! PROOFS. FIND, whole (spec/41_discovery_init.md §1): the parameters stay as they were, so FIND is one scan of the
span they give at its acceptance. -/

namespace Sys2Proof.Machine

/-- Step functions that agree where `P` holds, which the first keeps, run alike from there. -/
theorem untilIdle_congr {f g : State → State} {P : State → Prop} (agree : ∀ s, P s → f s = g s)
    (keeps : ∀ s, s.seq ≠ .idle → P s → P (f s)) (n : Nat) : ∀ s, P s → untilIdle n f s = untilIdle n g s := by
  induction n with
  | zero => exact fun _ _ => rfl
  | succ n ih =>
    intro s hs
    by_cases hi : s.seq = .idle
    · rw [untilIdle_of_idle _ _ hi, untilIdle_of_idle _ _ hi]
    · rw [untilIdle_succ_of_not_idle _ _ hi, untilIdle_succ_of_not_idle _ _ hi, ← agree s hs]
      exact ih _ (keeps s hi hs)

theorem State.OnCourse.blockStep_params {i : Instr} {s : State} (h : s.OnCourse i) :
    (Machine.blockStep s).params = s.params := by
  rcases h with hs | ⟨p, l, hs, hp⟩
  · rw [blockStep_of_idle hs]
  · exact (WritesOnlyItsRegisters.of_blockEffect (blockStep_effect hs hp)).params

theorem findStep_eq_scanStep {s u : State} (first last : Byte) (h : u.params = s.params) :
    findStep first last u =
      scanStep (scanBounds s.params.scanMode first last).1 (scanBounds s.params.scanMode first last).2 u := by
  rw [findStep, h]

/-- FIND is a scan of the span that its operands and `SCAN_MODE` give (R160, R161). -/
theorem exec_find_eq_scan {s : State} (first last : Byte) (hs : s.seq = .idle) :
    exec (.find first last) s = .next (untilIdle stepBound
      (scanStep (scanBounds s.params.scanMode first last).1 (scanBounds s.params.scanMode first last).2)
      (s.running (.find first last) ⟨0, 0⟩ Locals.empty)) := by
  rw [exec_eq_runCommand, runCommand_idle _ _ hs]
  refine congrArg _ (untilIdle_congr (f := commandStep (.find first last))
    (P := fun u => u.OnCourse (.find first last) ∧ u.params = s.params)
    (fun u ⟨_, hparams⟩ => findStep_eq_scanStep first last hparams) (fun u hu ⟨hcourse, hparams⟩ => ?_) _ _
    ⟨State.onCourse_running (Position.legal_zero _) _ s, rfl⟩)
  rw [hcourse.commandStep_eq_blockStep hu]
  exact ⟨hcourse.blockStep, hcourse.blockStep_params.trans hparams⟩

/-- A scan list has at most 254 addresses. -/
theorem length_scanList_le (mode : ScanMode) (first last : Byte) : (scanList mode first last).length ≤ 254 := by
  obtain ⟨hlo, -, hhi⟩ := scanBounds_le mode first last
  rw [scanList, length_addressSpan]
  omega

/-- Settles O22: FIND is a whole scan, which is acknowledged or exhausts its list. -/
theorem findFollowsItsRule : Obligations.FindFollowsItsRule := by
  intro s first last hs
  have hhi : (scanBounds s.params.scanMode first last).2 ≤ 256 := scanSpan_snd_le s.params.scanMode (.find first last)
  have hlength := length_scanList_le s.params.scanMode first last
  rw [exec_find_eq_scan first last hs]
  refine ⟨fun before after a hlist hno hok => ?_, fun hno => ?_⟩
  · rw [hlist, List.length_append, List.length_cons] at hlength
    obtain ⟨n, hfuel⟩ : ∃ n, stepBound = before.length + 2 + n := Nat.exists_eq_add_of_le (by rw [stepBound]; omega)
    rw [hfuel, scan_body_acknowledged (fun _ _ _ => rfl) hhi hlist hno hok, State.succeedAt_zero, untilIdle_withResult]
    rfl
  · rw [scanList, length_addressSpan] at hno hlength
    obtain ⟨n, hfuel⟩ := Nat.exists_eq_add_of_le ((Nat.add_le_add_right hlength 3).trans (by decide : 254 + 3 ≤ stepBound))
    rw [hfuel, scan_body_exhausted (fun _ _ _ => rfl) hhi hno]
    rfl

end Sys2Proof.Machine
end

section
/-! PROOFS. Once set, the address stays set (spec/41_discovery_init.md §1, R162). -/

namespace Sys2Proof.Machine

/-- The address a scan sets is the one it stands at, which is not 0 where the sequencer is sound. -/
theorem BlockEffect.address_ne_zero {i : Instr} {p : Position} {l : Locals} {s t : State} (h : BlockEffect i p l s t)
    (hq : (s.running i p l).SequencerSound) (ha : s.cfg.address ≠ 0) : t.cfg.address ≠ 0 := by
  obtain ⟨-, -, hscan⟩ := hq
  rcases h.cfg with hcfg | ⟨u, hu, hcfg⟩ | ⟨hb, h1, he, hcfg⟩
  · rwa [hcfg]
  · rwa [hcfg, hu.address]
  · rw [hcfg]
    exact hscan hb h1 he

/-- Settles O38: a sound sequencer and an address that is not 0 are kept together by every step of the block. -/
theorem addressStaysSet : Obligations.AddressStaysSet := by
  intro s t hsound ha h
  refine (step_induction (P := fun u => u.SequencerSound ∧ u.cfg.address ≠ 0) h hsound ⟨hsound, ha⟩
    (fun i rest _ => ⟨State.sequencerSound_running_zero (Position.legal_zero i), ha⟩) ?_).2
  intro i p l u hu hp ⟨hseq, haddress⟩
  have heffect := blockStep_effect hu hp
  rw [State.eq_running hu] at hseq
  exact ⟨heffect.sequencerSound hseq, heffect.address_ne_zero hseq haddress⟩

end Sys2Proof.Machine
end

section
/-! PROOFS. INIT, whole (spec/41_discovery_init.md §2): it clears the samples, scans, and then configures the device it
has found by four register writes and ENINT's body, each a transaction or more that may be the first to fail (R172). -/

namespace Sys2Proof.Machine

variable {acc : AccelRange} {gyr : GyroRange} {d : Byte}

/-! ### The four register writes -/

/-- The write of INIT's step `3 + m`, to device `dev` (R170): WAKE's, SETACC's, SETGYR's and SETDIV's. -/
def configWrite (dev : Byte) (acc : AccelRange) (gyr : GyroRange) (d : Byte) : Nat → Request
  | 0 => writeOf dev 0x6B 0x00
  | 1 => writeOf dev 0x1C (acc.code.zeroExtend 8 <<< 3)
  | 2 => writeOf dev 0x1B (gyr.code.zeroExtend 8 <<< 3)
  | _ => writeOf dev 0x19 d

/-- The first `m` of INIT's register writes. -/
def configWrites (dev : Byte) (acc : AccelRange) (gyr : GyroRange) (d : Byte) (m : Nat) : List Request :=
  (List.range m).map (configWrite dev acc gyr d)

/-- The fields that INIT's first `m` register writes have set: each as its write succeeds (R172, R173). -/
def State.configured (acc : AccelRange) (gyr : GyroRange) (d : Byte) (m : Nat) (s : State) : State :=
  { s with cfg := { address := s.cfg.address
                    accelRange := if 1 < m then acc else s.cfg.accelRange
                    gyroRange := if 2 < m then gyr else s.cfg.gyroRange
                    divider := if 3 < m then d else s.cfg.divider } }

theorem State.configured_of_lt {m : Nat} (hm : 3 < m) (s : State) :
    s.configured acc gyr d m = { s with cfg := ⟨s.cfg.address, acc, gyr, d⟩ } := by
  simp [configured, hm, (by omega : 1 < m), (by omega : 2 < m)]

theorem initRequests_eq (dev v : Byte) :
    initRequests dev acc gyr d v = configWrites dev acc gyr d 4 ++ enintRequests dev v := rfl

theorem take_initRequests_of_lt (dev v : Byte) {m : Nat} (hm : m < 4) :
    (initRequests dev acc gyr d v).take (m + 1) = configWrites dev acc gyr d (m + 1) := by
  match m, hm with
  | 0, _ | 1, _ | 2, _ | 3, _ => rfl

theorem take_initRequests_add (dev v : Byte) (m : Nat) :
    (initRequests dev acc gyr d v).take (4 + m) = configWrites dev acc gyr d 4 ++ (enintRequests dev v).take m := by
  rw [initRequests_eq]
  exact List.take_length_add_append (l₁ := configWrites dev acc gyr d 4) m

/-- The state in which INIT's first `m` register writes have succeeded, from state `s` on. -/
def State.afterConfig (acc : AccelRange) (gyr : GyroRange) (d : Byte) (m : Nat) (s : State) : State :=
  ((s.afterRequests (configWrites s.cfg.address acc gyr d m)).configured acc gyr d m).recordError .noError

theorem State.afterConfig_zero (s : State) : s.afterConfig acc gyr d 0 = s.recordError .noError := by
  rw [afterConfig, configWrites, List.range_zero, List.map_nil, afterRequests_nil]
  rfl

@[simp] theorem State.afterConfig_address (m : Nat) (s : State) :
    (s.afterConfig acc gyr d m).cfg.address = s.cfg.address := rfl

theorem length_configWrites (dev : Byte) (m : Nat) : (configWrites dev acc gyr d m).length = m := by
  simp [configWrites]

theorem State.statusAt_afterConfig (m k : Nat) (s : State) :
    (s.afterConfig acc gyr d m).statusAt k = s.statusAt (m + k) :=
  (statusAt_afterRequests k _ s).trans (by rw [length_configWrites])

theorem State.bytesAt_afterConfig (m k n : Nat) (s : State) :
    (s.afterConfig acc gyr d m).bytesAt k n = s.bytesAt (m + k) n :=
  (bytesAt_afterRequests k n _ s).trans (by rw [length_configWrites])

theorem State.afterRequests_afterConfig (m : Nat) (rs : List Request) (s : State) :
    (s.afterConfig acc gyr d m).afterRequests rs =
      ((s.afterRequests (configWrites s.cfg.address acc gyr d m ++ rs)).configured acc gyr d m).recordError .noError := by
  rw [← afterRequests_append]
  rfl

/-- A command's end replaces what `err` held, so INIT's sub-operations leave nothing there. -/
theorem State.withResult_afterRequests_afterConfig (m : Nat) (rs : List Request) (k : ErrorKind) (s : State) :
    ((s.afterConfig acc gyr d m).afterRequests rs).withResult k =
      ((s.afterRequests (configWrites s.cfg.address acc gyr d m ++ rs)).configured acc gyr d m).withResult k := by
  rw [afterRequests_afterConfig]
  rfl

/-- The body of INIT's step `3 + m`: it checks the address, writes `v` to `reg` and makes the update `upd`, which sets
the field of the write `m`. -/
structure InitWrites (acc : AccelRange) (gyr : GyroRange) (d : Byte) (m : Nat) (reg v : Byte) (upd : State → State) :
    Prop where
  check : ∀ t l, initStep acc gyr d (State.running (.init acc gyr d) ⟨3 + m, 0⟩ l t) =
    (State.running (.init acc gyr d) ⟨3 + m, 0⟩ l t).requireAddress
  write : ∀ t l, initStep acc gyr d (State.running (.init acc gyr d) ⟨3 + m, 1⟩ l t) =
    (State.running (.init acc gyr d) ⟨3 + m, 1⟩ l t).memWriteStep reg v 2
  update : ∀ t l, initStep acc gyr d (State.running (.init acc gyr d) ⟨3 + m, 2⟩ l t) =
    ((upd t).running (.init acc gyr d) ⟨3 + m, 2⟩ l).succeed
  request : ∀ dev, configWrite dev acc gyr d m = writeOf dev reg v
  configures : ∀ t : State, upd ((t.configured acc gyr d m).recordError .noError) =
    (t.configured acc gyr d (m + 1)).recordError .noError

theorem exists_initWrites (acc : AccelRange) (gyr : GyroRange) (d : Byte) {m : Nat} (hm : m < 4) :
    ∃ reg v upd, InitWrites acc gyr d m reg v upd := by
  match m, hm with
  | 0, _ => exact ⟨_, _, id, fun _ _ => rfl, fun _ _ => rfl, fun _ _ => rfl, fun _ => rfl, fun _ => rfl⟩
  | 1, _ =>
    exact ⟨_, _, State.setAccelRange acc, fun _ _ => rfl, fun _ _ => rfl, fun _ _ => rfl, fun _ => rfl, fun _ => rfl⟩
  | 2, _ =>
    exact ⟨_, _, State.setGyroRange gyr, fun _ _ => rfl, fun _ _ => rfl, fun _ _ => rfl, fun _ => rfl, fun _ => rfl⟩
  | 3, _ =>
    exact ⟨_, _, State.setDivider d, fun _ _ => rfl, fun _ _ => rfl, fun _ _ => rfl, fun _ => rfl, fun _ => rfl⟩

theorem configWrites_succ (dev : Byte) (m : Nat) :
    configWrites dev acc gyr d (m + 1) = configWrites dev acc gyr d m ++ [configWrite dev acc gyr d m] := by
  simp [configWrites, List.range_succ]

/-- INIT at its step `3 + m`, by the answer to its write. -/
theorem init_write {m : Nat} (hm : m < 4) {s : State} (ha : s.cfg.address ≠ 0) (n : Nat) :
    untilIdle (n + 3) (initStep acc gyr d) ((s.afterConfig acc gyr d m).running (.init acc gyr d) ⟨3 + m, 0⟩ Locals.empty) =
      match failKind (s.statusAt m) with
      | some k =>
        ((s.afterRequests (configWrites s.cfg.address acc gyr d (m + 1))).configured acc gyr d m).withResult k
      | none => untilIdle n (initStep acc gyr d)
          ((s.afterConfig acc gyr d (m + 1)).running (.init acc gyr d) ⟨3 + (m + 1), 0⟩ Locals.empty) := by
  obtain ⟨reg, v, upd, hcheck, hwrite, hupdate, hrequest, hconfigures⟩ := exists_initWrites acc gyr d hm
  have hinit : 2 ≤ 3 + m ∧ 3 + m ≤ 7 := by omega
  refine (singleWrite_body hcheck hwrite hupdate n Locals.empty (s.afterConfig acc gyr d m)).trans ((if_neg ha).trans ?_)
  rw [State.statusAt_afterConfig, Nat.add_zero, State.afterConfig_address, ← hrequest, State.afterRequests_afterConfig,
    ← configWrites_succ, hconfigures]
  cases failKind (s.statusAt m) with
  | some k => rfl
  | none =>
    rw [State.succeedAt, if_pos hinit]
    rfl

theorem init_writes_of_ok {m : Nat} (hm : m ≤ 4) {s : State} (ha : s.cfg.address ≠ 0)
    (hok : ∀ j, j < m → s.statusAt j = .ok) (n : Nat) :
    untilIdle (n + 3 * m) (initStep acc gyr d) ((s.recordError .noError).running (.init acc gyr d) ⟨3, 0⟩ Locals.empty) =
      untilIdle n (initStep acc gyr d)
        ((s.afterConfig acc gyr d m).running (.init acc gyr d) ⟨3 + m, 0⟩ Locals.empty) := by
  induction m generalizing n with
  | zero =>
    rw [State.afterConfig_zero]
    rfl
  | succ m ih =>
    have hfuel : n + 3 * (m + 1) = n + 3 + 3 * m := by omega
    rw [hfuel, ih (by omega) (fun j hj => hok j (by omega)), init_write (by omega) ha, hok m (by omega)]
    rfl

/-! ### From the device found to the end

Nineteen steps at the most: three in each of the four bodies that write one register, six in ENINT's, and INIT's
step 8. -/

/-- The device found, INIT whose eight answers are all `Ok` (R170, R173). -/
theorem init_configure_of_ok {s : State} (ha : s.cfg.address ≠ 0) (hok : ∀ j, j < 8 → s.statusAt j = .ok) (n : Nat) :
    untilIdle (n + 19) (initStep acc gyr d) ((s.recordError .noError).running (.init acc gyr d) ⟨3, 0⟩ Locals.empty) =
      ((s.afterRequests (initRequests s.cfg.address acc gyr d ((s.bytesAt 6 1).getD 0 0))).configured acc gyr d 4).withResult
        .noError := by
  have hbody := (enint_body (f := initStep acc gyr d) (i := .init acc gyr d) (j := 7) (fun _ _ _ => rfl) (n + 1)
    Locals.empty rfl (s.afterConfig acc gyr d 4) ha).1
      fun j hj => (State.statusAt_afterConfig 4 j s).trans (hok (4 + j) (by omega))
  rw [init_writes_of_ok (m := 4) le_rfl ha (fun j hj => hok j (by omega)) (n + 7)]
  refine hbody.trans ?_
  rw [State.bytesAt_afterConfig, State.afterConfig_address, initRequests_eq, ← State.withResult_afterRequests_afterConfig]
  exact untilIdle_withResult n _ .noError _

/-- The device found, INIT whose answer `j` is the first that is not `Ok` (R172). -/
theorem init_configure_of_failed {s : State} (ha : s.cfg.address ≠ 0) {j : Nat} {k : ErrorKind} (hj : j < 8)
    (hok : ∀ m, m < j → s.statusAt m = .ok) (hk : failKind (s.statusAt j) = some k) (n : Nat) :
    untilIdle (n + 19) (initStep acc gyr d) ((s.recordError .noError).running (.init acc gyr d) ⟨3, 0⟩ Locals.empty) =
      ((s.afterRequests ((initRequests s.cfg.address acc gyr d ((s.bytesAt 6 1).getD 0 0)).take (j + 1))).configured
        acc gyr d j).withResult k := by
  rcases Nat.lt_or_ge j 4 with hwrite | henint
  · have hfuel : n + 19 = n + 19 - 3 * (j + 1) + 3 + 3 * j := by omega
    rw [hfuel, init_writes_of_ok hwrite.le ha hok, init_write hwrite ha, hk, take_initRequests_of_lt _ _ hwrite]
  · obtain ⟨m, rfl⟩ := Nat.exists_eq_add_of_le henint
    have hbody := (enint_body (f := initStep acc gyr d) (i := .init acc gyr d) (j := 7) (fun _ _ _ => rfl) (n + 1)
      Locals.empty rfl (s.afterConfig acc gyr d 4) ha).2 m k (by omega)
        (fun m' hm => (State.statusAt_afterConfig 4 m' s).trans (hok (4 + m') (by omega)))
        ((congrArg failKind (State.statusAt_afterConfig 4 m s)).trans hk)
    rw [init_writes_of_ok (m := 4) le_rfl ha (fun m' hm => hok m' (by omega)) (n + 7)]
    refine hbody.trans ?_
    rw [State.bytesAt_afterConfig, State.afterConfig_address, State.withResult_afterRequests_afterConfig,
      Nat.add_assoc, take_initRequests_add, State.configured_of_lt (by omega), State.configured_of_lt (by omega)]

/-! ### The whole command -/

/-- INIT from an Idle block up to its scan, with the samples cleared (R170, R171). -/
theorem exec_init_of_idle {s : State} (hs : s.seq = .idle) :
    exec (.init acc gyr d) s = .next (untilIdle 298 (initStep acc gyr d)
      (s.clearSamples.running (.init acc gyr d) ⟨2, 0⟩ Locals.empty)) := by
  obtain ⟨t, ht⟩ : ∃ t, exec (.init acc gyr d) s = .next t := ⟨_, runCommand_idle _ _ hs⟩
  rw [ht, exec_init_eq ht]
  rfl

/-- INIT's step 2 is a scan of 1 to 254 (R174). -/
theorem initStep_two (acc : AccelRange) (gyr : GyroRange) (d : Byte) (k : Nat) (t : State) (l : Locals) :
    initStep acc gyr d (t.running (.init acc gyr d) ⟨2, k⟩ l) =
      scanStep Config.initScanLo Config.initScanHi (t.running (.init acc gyr d) ⟨2, k⟩ l) := rfl

/-- INIT with no device in 1 to 254 (R174). -/
theorem exec_init_of_notFound {s : State} (hs : s.seq = .idle) (hno : ∀ j, j < 254 → s.statusAt j ≠ .ok) :
    exec (.init acc gyr d) s =
      .next ((s.clearSamples.afterRequests (initScanList.map probeOf)).withResult .deviceNotFound) := by
  rw [exec_init_of_idle hs]
  exact congrArg _ (scan_body_exhausted (initStep_two acc gyr d) (by decide) (s := s.clearSamples) hno Locals.empty 41)

/-- INIT has cleared the samples, has probed the addresses `before` in vain and has found the device at `a`. -/
def State.initFound (before : List Byte) (a : Byte) (s : State) : State :=
  (s.clearSamples.afterRequests ((before ++ [a]).map probeOf)).setAddress a

theorem State.statusAt_initFound (before : List Byte) (a : Byte) (k : Nat) (s : State) :
    (s.initFound before a).statusAt k = s.statusAt (before.length + 1 + k) :=
  (statusAt_afterRequests k _ s.clearSamples).trans (by simp; rfl)

theorem State.bytesAt_initFound (before : List Byte) (a : Byte) (k n : Nat) (s : State) :
    (s.initFound before a).bytesAt k n = s.bytesAt (before.length + 1 + k) n :=
  (bytesAt_afterRequests k n _ s.clearSamples).trans (by simp; rfl)

/-- INIT from an Idle block to the device found at `a`, with the steps it may then still need. -/
theorem exec_init_of_found {s : State} (hs : s.seq = .idle) {before after : List Byte} {a : Byte}
    (hlist : initScanList = before ++ a :: after) (hno : ∀ j, j < before.length → s.statusAt j ≠ .ok)
    (hok : s.statusAt before.length = .ok) :
    ∃ n, exec (.init acc gyr d) s = .next (untilIdle (n + 19) (initStep acc gyr d)
      (((s.initFound before a).recordError .noError).running (.init acc gyr d) ⟨3, 0⟩ Locals.empty)) := by
  have hlength : before.length < 254 := by
    have := congrArg List.length hlist
    rw [initScansAllAddresses.1, List.length_append, List.length_cons] at this
    omega
  have hfuel : 298 = before.length + 2 + (277 - before.length + 19) := by omega
  refine ⟨277 - before.length, ?_⟩
  rw [exec_init_of_idle hs, hfuel]
  exact congrArg _ (scan_body_acknowledged (initStep_two acc gyr d) (by decide) hlist (s := s.clearSamples) hno hok
    Locals.empty _)

theorem ne_zero_of_mem_initScanList {a : Byte} (ha : a ∈ initScanList) : a ≠ 0 := by
  rintro rfl
  exact absurd ((mem_addressSpan (by decide) 0).1 ha).1 (by decide)

/-- Settles O23: INIT finds no device, or finds one and configures it up to the first answer that is not `Ok`. -/
theorem initFollowsItsRule : Obligations.InitFollowsItsRule := by
  intro s acc gyr d hs
  refine ⟨exec_init_of_notFound hs, fun before after a hlist hno hok => ?_⟩
  have ha : a ≠ 0 := ne_zero_of_mem_initScanList (by simp [hlist])
  obtain ⟨n, hexec⟩ := exec_init_of_found (acc := acc) (gyr := gyr) (d := d) hs hlist hno hok
  refine ⟨fun hall => ?_, fun j k hj hbefore hk => ?_⟩
  · rw [hexec, init_configure_of_ok ha fun j hj => (State.statusAt_initFound before a j s).trans (hall j hj),
      State.bytesAt_initFound, ← State.afterRequests_append]
    rfl
  · rw [hexec, init_configure_of_failed ha hj
      (fun m hm => (State.statusAt_initFound before a m s).trans (hbefore m hm))
      ((congrArg failKind (State.statusAt_initFound before a j s)).trans hk),
      State.bytesAt_initFound, ← State.afterRequests_append]
    rfl

end Sys2Proof.Machine
end

section
/-! PROOFS. READ, whole, and the samples a failed READ keeps (spec/42_acquisition.md R190 to R192). -/

namespace Sys2Proof.Machine

/-- READ whose two answers are `Ok` stores the burst and its calibration with the ranges held (R190, R193). -/
theorem exec_read_of_ok {s : State} (hs : s.seq = .idle) (ha : s.cfg.address ≠ 0) (hselect : s.statusAt 0 = .ok)
    (hburst : s.statusAt 1 = .ok) :
    exec .read s = .next (State.withResult .noError
      ((s.afterRequests [selectOf s.cfg.address 0x3B, readOf s.cfg.address 14]).setSamples
        (burstWords (s.bytesAt 1 14))
        (calibrate s.params (burstWords (s.bytesAt 1 14)) s.cfg.accelRange s.cfg.gyroRange))) := by
  rw [exec_read_of_address_ne_zero hs ha, hselect, hburst, failKind_ok]

/-- READ whose pointer write fails ends there, with one transaction made (R192). -/
theorem exec_read_of_select_failed {s : State} (hs : s.seq = .idle) (ha : s.cfg.address ≠ 0) {k : ErrorKind}
    (hk : failKind (s.statusAt 0) = some k) :
    exec .read s = .next (State.withResult k (s.afterRequests [selectOf s.cfg.address 0x3B])) := by
  rw [exec_read_of_address_ne_zero hs ha, hk]

/-- READ whose burst fails ends there, with both transactions made (R192). -/
theorem exec_read_of_burst_failed {s : State} (hs : s.seq = .idle) (ha : s.cfg.address ≠ 0) {k : ErrorKind}
    (hselect : s.statusAt 0 = .ok) (hk : failKind (s.statusAt 1) = some k) :
    exec .read s = .next (State.withResult k
      (s.afterRequests [selectOf s.cfg.address 0x3B, readOf s.cfg.address 14])) := by
  rw [exec_read_of_address_ne_zero hs ha, hselect, hk, failKind_ok]

/-- Settles O25: by the check of the address and then by the first answer, if any, that is not `Ok`. -/
theorem readFollowsItsRule : Obligations.ReadFollowsItsRule :=
  ⟨rfl, fun s hs => ⟨s.length_bytesAt 1 14, exec_of_address_eq_zero hs trivial, exec_read_of_ok hs,
    fun _ ha hk => exec_read_of_select_failed hs ha hk,
    fun _ ha hselect hk => exec_read_of_burst_failed hs ha hselect hk⟩⟩

/-- Settles O26: each of the three failures ends READ before its step 2, the only one that stores samples. -/
theorem failedReadKeepsSamples : Obligations.FailedReadKeepsSamples := by
  intro s hs
  refine ⟨fun ha => ⟨_, exec_of_address_eq_zero hs trivial ha, rfl, rfl, rfl⟩, fun st k ha hk hfailed => ?_⟩
  rcases hfailed with rfl | ⟨hselect, rfl⟩
  · exact ⟨_, exec_read_of_select_failed hs ha hk, rfl, rfl, rfl⟩
  · exact ⟨_, exec_read_of_burst_failed hs ha hselect hk, rfl, rfl, rfl⟩

end Sys2Proof.Machine
end

section
/-! PROOFS. The elements of Calibrate before rounding (spec/43_calibration.md R210 to R217): one equation for each group
of entries of the file, and the range of a raw word and of its quotients. -/

namespace Sys2Proof.Machine

/-! ### The entries of the file -/

theorem calibrateWith_get_of_le_two (toF : Rat → Float32Bits) (p : Params) (r : Seven Word) (acc : AccelRange)
    (gyr : GyroRange) {k : Fin 7} (hk : k.val ≤ 2) :
    (calibrateWith toF p r acc gyr).get k = toF (accelExact p.rawSignedness acc (r.get k)) := by
  match k, hk with
  | 0, _ | 1, _ | 2, _ => rfl

theorem calibrateWith_get_three (toF : Rat → Float32Bits) (p : Params) (r : Seven Word) (acc : AccelRange)
    (gyr : GyroRange) : (calibrateWith toF p r acc gyr).get 3 = toF (temperatureExact p (r.get 3)) := rfl

theorem calibrateWith_get_of_four_le (toF : Rat → Float32Bits) (p : Params) (r : Seven Word) (acc : AccelRange)
    (gyr : GyroRange) {k : Fin 7} (hk : 4 ≤ k.val) :
    (calibrateWith toF p r acc gyr).get k = toF (gyroExact p.rawSignedness gyr (r.get k)) := by
  match k, hk with
  | 4, _ | 5, _ | 6, _ => rfl

/-- The groups of the file's entries (R13): three of the accelerometer, the temperature, three of the gyroscope. -/
theorem entry_cases (k : Fin 7) : k.val ≤ 2 ∨ k = 3 ∨ 4 ≤ k.val := by omega

/-! ### Ranges -/

theorem accelLsb_bounds (acc : AccelRange) : 1 ≤ accelLsb acc ∧ accelLsb acc ≤ 2 ^ 14 := by
  cases acc <;> norm_num [accelLsb]

theorem gyroLsb_bounds (gyr : GyroRange) : 1 ≤ gyroLsb gyr ∧ gyroLsb gyr ≤ 2 ^ 14 := by
  cases gyr <;> norm_num [gyroLsb]

theorem accelLsb_pos (acc : AccelRange) : 0 < accelLsb acc := zero_lt_one.trans_le (accelLsb_bounds acc).1

theorem gyroLsb_pos (gyr : GyroRange) : 0 < gyroLsb gyr := zero_lt_one.trans_le (gyroLsb_bounds gyr).1

theorem rawval_signed_bounds (w : Word) : -32768 ≤ rawval .signed w ∧ rawval .signed w ≤ 32767 :=
  ⟨BitVec.le_toInt w, Int.lt_add_one_iff.mp BitVec.toInt_lt⟩

theorem abs_rawval_lt (mode : RawSignedness) (w : Word) : |rawval mode w| < 2 ^ 16 := by
  cases mode with
  | signed =>
    have hbounds := rawval_signed_bounds w
    exact abs_lt.mpr (by omega)
  | referenceUnsigned =>
    have hhi := w.isLt
    rw [rawval_referenceUnsigned]
    exact abs_lt.mpr (by omega)

/-- R214 and R215: under `Signed` a quotient lies between those of the least and the greatest word. -/
theorem rawval_signed_div_bounds (w : Word) {lsb : Rat} (h : 0 < lsb) :
    -32768 / lsb ≤ (rawval .signed w : Rat) / lsb ∧ (rawval .signed w : Rat) / lsb ≤ 32767 / lsb := by
  obtain ⟨hlo, hhi⟩ := rawval_signed_bounds w
  exact ⟨by gcongr; exact_mod_cast hlo, by gcongr; exact_mod_cast hhi⟩

/-! ### The statements -/

/-- Settles O44: by the group of the entry. -/
theorem calibrateElements : Obligations.CalibrateElements := by
  refine ⟨⟨rfl, rfl, rfl, rfl⟩, ⟨rfl, rfl, rfl, rfl⟩, fun toF p r acc gyr k => ?_⟩
  rcases entry_cases k with hk | rfl | hk
  · rw [if_pos hk]
    exact calibrateWith_get_of_le_two toF p r acc gyr hk
  · exact calibrateWith_get_three toF p r acc gyr
  · rw [if_neg (by omega), if_neg (by omega)]
    exact calibrateWith_get_of_four_le toF p r acc gyr hk

/-- Settles O45: the accelerometer entries of the file, and a quotient's range at a positive scale. -/
theorem accelerometerElements : Obligations.AccelerometerElements :=
  ⟨⟨rfl, rfl, rfl, rfl⟩, fun toF p r acc gyr _ hk => calibrateWith_get_of_le_two toF p r acc gyr hk,
    fun w acc => rawval_signed_div_bounds w (accelLsb_pos acc), by norm_num [accelLsb], by norm_num [accelLsb]⟩

/-- Settles O46: the gyroscope entries of the file, and a quotient's range at a positive scale. -/
theorem gyroscopeElements : Obligations.GyroscopeElements :=
  ⟨fun toF p r acc gyr _ hk => calibrateWith_get_of_four_le toF p r acc gyr hk,
    fun w gyr => rawval_signed_div_bounds w (gyroLsb_pos gyr), by norm_num [gyroLsb],
    by norm_num [abs_lt], by norm_num [abs_lt]⟩

theorem temperature_datasheet (t : Int) : temperature .datasheet t = t / 340 + 36.53 := by norm_num [temperature]

theorem temperature_reference (t : Int) : temperature .reference t = -(t / 340) + 36.53 := by norm_num [temperature]

/-- The formulas differ in the sign of `t / 340` alone. -/
theorem temperature_datasheet_eq_reference_iff (t : Int) :
    temperature .datasheet t = temperature .reference t ↔ t = 0 := by
  rw [temperature_datasheet, temperature_reference, add_left_inj, self_eq_neg]
  simp

/-- Settles O47: the temperature entry is that of the formula chosen, and the formulas differ by a sign. -/
theorem referenceTemperature : Obligations.ReferenceTemperature :=
  ⟨fun toF _ r _ _ => congrArg toF (temperature_reference (rawval _ r.temperature)),
    temperature_datasheet_eq_reference_iff,
    by simp [temperature_datasheet], by simp [temperature_reference]⟩

/-- Settles O48: the temperature entry is that of the formula chosen. -/
theorem datasheetTemperature : Obligations.DatasheetTemperature :=
  fun toF _ r _ _ => congrArg toF (temperature_datasheet (rawval _ r.temperature))

end Sys2Proof.Machine
end

section
/-! PROOFS. The fields of a binary32 pattern, and the pattern `toFloat` gives as its sign bit and its magnitude
(spec/00_scope.md R10, spec/43_calibration.md R218). -/

namespace Sys2Proof.Machine

theorem floatExponent_eq (x : Float32Bits) : floatExponent x = x.toNat / 2 ^ 23 % 2 ^ 8 := by
  rw [floatExponent, BitVec.extractLsb'_toNat, Nat.shiftRight_eq_div_pow]

theorem floatFraction_eq (x : Float32Bits) : floatFraction x = x.toNat % 2 ^ 23 := by
  rw [floatFraction, BitVec.extractLsb'_toNat, Nat.shiftRight_zero]

/-- The pattern of `|q|`: bits 30:0 of `toFloat q`. -/
def magnitudeOf (q : Rat) : Nat := magnitudeBits q.num.natAbs q.den

theorem magnitudeOf_zero : magnitudeOf 0 = 0 := rfl

theorem magnitudeOf_neg (q : Rat) : magnitudeOf (-q) = magnitudeOf q := by
  simp [magnitudeOf]

theorem magnitudeOf_le (q : Rat) : magnitudeOf q ≤ 255 * 2 ^ 23 := by
  unfold magnitudeOf magnitudeBits
  split
  · exact Nat.zero_le _
  · exact Nat.min_le_right _ _

theorem toNat_toFloat (q : Rat) : (toFloat q).toNat = (if q < 0 then 2 ^ 31 else 0) + magnitudeOf q := by
  have hm := magnitudeOf_le q
  refine (BitVec.toNat_ofNat _ _).trans (Nat.mod_eq_of_lt ?_)
  change _ + magnitudeOf q < _
  split <;> omega

theorem toFloat_zero : toFloat 0 = 0 := rfl

@[simp] theorem floatExponent_toFloat (q : Rat) : floatExponent (toFloat q) = magnitudeOf q / 2 ^ 23 := by
  have hm := magnitudeOf_le q
  rw [floatExponent_eq, toNat_toFloat]
  split <;> omega

@[simp] theorem floatFraction_toFloat (q : Rat) : floatFraction (toFloat q) = magnitudeOf q % 2 ^ 23 := by
  rw [floatFraction_eq, toNat_toFloat]
  split <;> omega

@[simp] theorem msb_toFloat (q : Rat) : (toFloat q).msb = decide (q < 0) := by
  have hm := magnitudeOf_le q
  rw [BitVec.msb_eq_decide, toNat_toFloat, decide_eq_decide]
  split
  case isTrue h => exact iff_of_true (by omega) h
  case isFalse h => exact iff_of_false (by omega) h

theorem toFloat_even_iff (q : Rat) : (toFloat q).getLsbD 0 = false ↔ magnitudeOf q % 2 = 0 := by
  rw [← BitVec.testBit_toNat, Nat.testBit_zero, decide_eq_false_iff_not, toNat_toFloat]
  split <;> omega

/-- The magnitude a pattern's exponent and fraction fields stand for. -/
def fieldsValue (e f : Nat) : Rat :=
  if e = 0 then f * 2 ^ (-149 : Int) else (2 ^ 23 + f) * 2 ^ ((e : Int) - 150)

theorem floatValue_eq (x : Float32Bits) :
    floatValue x = (if x.msb then -1 else 1) * fieldsValue (floatExponent x) (floatFraction x) := rfl

/-- A significand added to the exponent field's part has the value of the significand in that exponent's unit: its
leading bit counts into the exponent field, and so does a carry out of its top. -/
theorem fieldsValue_add {k s : Nat} (hs : s ≤ 2 ^ 24) (hk : k = 0 ∨ 2 ^ 23 ≤ s) :
    fieldsValue ((k * 2 ^ 23 + s) / 2 ^ 23) ((k * 2 ^ 23 + s) % 2 ^ 23) = s * 2 ^ ((k : Int) - 149) := by
  rcases lt_or_ge s (2 ^ 23) with hsub | hnormal
  · have hk0 : k = 0 := hk.resolve_right hsub.not_ge
    rw [hk0, zero_mul, zero_add, Nat.div_eq_of_lt hsub, Nat.mod_eq_of_lt hsub]
    rfl
  · obtain ⟨f, rfl⟩ := Nat.exists_eq_add_of_le hnormal
    rcases Nat.lt_or_eq_of_le (show f ≤ 2 ^ 23 by omega) with hf | rfl
    · have hexp : (k * 2 ^ 23 + (2 ^ 23 + f)) / 2 ^ 23 = k + 1 := by omega
      have hfrac : (k * 2 ^ 23 + (2 ^ 23 + f)) % 2 ^ 23 = f := by omega
      rw [hexp, hfrac, fieldsValue, if_neg (by omega)]
      push_cast
      ring_nf
    · have hexp : (k * 2 ^ 23 + (2 ^ 23 + 2 ^ 23)) / 2 ^ 23 = k + 2 := by omega
      have hfrac : (k * 2 ^ 23 + (2 ^ 23 + 2 ^ 23)) % 2 ^ 23 = 0 := by omega
      have hunit : ((k + 2 : Nat) : Int) - 150 = k - 149 + 1 := by push_cast; ring
      rw [hexp, hfrac, fieldsValue, if_neg (by omega), hunit, zpow_add_one₀ two_ne_zero]
      push_cast
      ring

/-- Adding the weight of the sign bit flips it. -/
theorem ofNat_signBit_add (m : Nat) : BitVec.ofNat 32 (2 ^ 31 + m) = BitVec.ofNat 32 m ^^^ 0x80000000 := by
  refine BitVec.eq_of_getLsbD_eq fun i hi => ?_
  have hsign : (0x80000000 : BitVec 32).getLsbD i = decide (31 = i) := Nat.testBit_two_pow (n := 31)
  rw [BitVec.getLsbD_xor, BitVec.getLsbD_ofNat, BitVec.getLsbD_ofNat, hsign]
  rcases Nat.lt_or_eq_of_le (Nat.le_of_lt_succ hi) with hlow | rfl
  · rw [Nat.testBit_two_pow_add_gt hlow, decide_eq_false hlow.ne', Bool.xor_false]
  · rw [Nat.testBit_two_pow_add_eq, decide_eq_true hi, decide_eq_true rfl, Bool.true_and, Bool.true_and, Bool.xor_true]

theorem toFloat_neg {q : Rat} (hq : q ≠ 0) : toFloat (-q) = toFloat q ^^^ 0x80000000 := by
  have hneg : toFloat (-q) = BitVec.ofNat 32 ((if -q < 0 then 2 ^ 31 else 0) + magnitudeOf q) := by
    rw [← magnitudeOf_neg]
    rfl
  have hpos : toFloat q = BitVec.ofNat 32 ((if q < 0 then 2 ^ 31 else 0) + magnitudeOf q) := rfl
  rw [hneg, hpos]
  rcases hq.lt_or_gt with h | h
  · rw [if_neg (by linarith), if_pos h, zero_add, ofNat_signBit_add, BitVec.xor_assoc, BitVec.xor_self, BitVec.xor_zero]
  · rw [if_pos (by linarith), if_neg (by linarith), zero_add, ofNat_signBit_add]

end Sys2Proof.Machine
end

section
/-! PROOFS. The two integers the default `TO_FLOAT` puts together for a rational `q` other than 0: the exponent of its
unit in the last place, and `|q|` in that unit, rounded to nearest, ties to even (spec/43_calibration.md R218). -/

namespace Sys2Proof.Machine

/-! ### Rounding to an integer -/

/-- `roundHalfEven_error` before the division: twice the error is at most `d`. -/
theorem roundHalfEven_bounds (n : Nat) {d : Nat} (hd : 0 < d) :
    2 * n ≤ 2 * (roundHalfEven n d * d) + d ∧ 2 * (roundHalfEven n d * d) ≤ 2 * n + d ∧
      (2 * n = 2 * (roundHalfEven n d * d) + d ∨ 2 * (roundHalfEven n d * d) = 2 * n + d →
        roundHalfEven n d % 2 = 0) := by
  have hn : n / d * d + n % d = n := Nat.div_add_mod' n d
  have hmod := Nat.mod_lt n hd
  have hup : (n / d + 1) * d = n / d * d + d := Nat.succ_mul _ _
  unfold roundHalfEven
  split
  · rw [hup]
    omega
  · omega

/-- A rounded quotient is off by at most a half, and is even where it is off by a half. -/
theorem roundHalfEven_error (n : Nat) {d : Nat} (hd : 0 < d) :
    |(roundHalfEven n d : Rat) - n / d| ≤ 1 / 2 ∧
      (|(roundHalfEven n d : Rat) - n / d| = 1 / 2 → roundHalfEven n d % 2 = 0) := by
  have hpos : (0 : Rat) < d := Nat.cast_pos.mpr hd
  obtain ⟨hlo, hhi, htie⟩ := roundHalfEven_bounds n hd
  qify at hlo hhi
  refine ⟨abs_sub_le_iff.mpr ⟨?_, ?_⟩, fun h => htie ?_⟩
  · rw [sub_le_comm, le_div_iff₀ hpos]
    linarith
  · rw [sub_le_iff_le_add, div_le_iff₀ hpos]
    linarith
  · qify
    rcases eq_or_eq_neg_of_abs_eq h with h | h <;> field_simp at h
    · exact .inr (by linarith)
    · exact .inl (by linarith)

/-! ### Powers of two -/

theorem two_zpow_eq_div (u : Int) : (2 : Rat) ^ u = 2 ^ u.toNat / 2 ^ (-u).toNat := by
  rw [← zpow_natCast, ← zpow_natCast, ← zpow_sub₀ two_ne_zero, Int.toNat_sub_toNat_neg]

theorem two_zpow_le_div_iff (n : Nat) {d : Nat} (hd : 0 < d) (e : Int) :
    (2 : Rat) ^ e ≤ n / d ↔ d * 2 ^ e.toNat ≤ n * 2 ^ (-e).toNat := by
  rw [two_zpow_eq_div, div_le_div_iff₀ (by positivity) (Nat.cast_pos.mpr hd), mul_comm]
  exact_mod_cast Iff.rfl

/-- The two integers `magnitudeBits` divides have the quotient `n / d` in units of `2 ^ u`. -/
theorem scaled_div (n d : Nat) (u : Int) :
    ((n * 2 ^ (-u).toNat : Nat) : Rat) / (d * 2 ^ u.toNat : Nat) = n / d / 2 ^ u := by
  rw [two_zpow_eq_div]
  push_cast
  field_simp

theorem two_pow_log2_bounds {n : Nat} (hn : 0 < n) :
    (2 : Rat) ^ (n.log2 : Int) ≤ n ∧ (n : Rat) < 2 ^ ((n.log2 : Int) + 1) :=
  ⟨by exact_mod_cast Nat.log2_self_le hn.ne', by exact_mod_cast Nat.lt_log2_self⟩

theorem binaryExponent_bounds {n d : Nat} (hn : 0 < n) (hd : 0 < d) :
    (2 : Rat) ^ binaryExponent n d ≤ n / d ∧ (n / d : Rat) < 2 ^ (binaryExponent n d + 1) := by
  obtain ⟨hnlo, hnhi⟩ := two_pow_log2_bounds hn
  obtain ⟨hdlo, hdhi⟩ := two_pow_log2_bounds hd
  have hpos : (0 : Rat) < d := Nat.cast_pos.mpr hd
  have hlo : (2 : Rat) ^ ((n.log2 : Int) - d.log2 - 1) ≤ n / d := by
    rw [sub_sub, zpow_sub₀ two_ne_zero]
    gcongr
  have hhi : (n / d : Rat) < 2 ^ ((n.log2 : Int) - d.log2 + 1) := by
    rw [sub_add_eq_add_sub, zpow_sub₀ two_ne_zero]
    gcongr
  unfold binaryExponent
  dsimp only
  split
  case isTrue h => exact ⟨(two_zpow_le_div_iff n hd _).mpr h, hhi⟩
  case isFalse h =>
    rw [← two_zpow_le_div_iff n hd, not_le] at h
    exact ⟨hlo, by rwa [sub_add_cancel]⟩

/-! ### The unit and the significand -/

/-- The unit in the last place of `toFloat q` is `2` to this power. -/
def unitOf (q : Rat) : Int := unitExponent q.num.natAbs q.den

/-- `|q|` in units of its last place, rounded. -/
def significandOf (q : Rat) : Nat :=
  roundHalfEven (q.num.natAbs * 2 ^ (-unitOf q).toNat) (q.den * 2 ^ (unitOf q).toNat)

theorem natAbs_num_div_den (q : Rat) : (q.num.natAbs : Rat) / q.den = |q| := by
  rw [Rat.abs_def, Rat.divInt_eq_div, Int.cast_natCast, Int.cast_natCast]

theorem neg_149_le_unitOf (q : Rat) : -149 ≤ unitOf q := by
  unfold unitOf unitExponent
  omega

theorem abs_lt_two_zpow_unitOf {q : Rat} (hq : q ≠ 0) : |q| < 2 ^ (unitOf q + 24) := by
  have h := (binaryExponent_bounds (Int.natAbs_pos.mpr (Rat.num_ne_zero.mpr hq)) q.den_pos).2
  rw [natAbs_num_div_den] at h
  refine h.trans_le (zpow_le_zpow_right₀ one_le_two ?_)
  unfold unitOf unitExponent
  omega

theorem two_zpow_unitOf_le {q : Rat} (hq : q ≠ 0) (h : unitOf q ≠ -149 ∨ 2 ^ (-126 : Int) ≤ |q|) :
    2 ^ (unitOf q + 23) ≤ |q| := by
  have hexp := (binaryExponent_bounds (Int.natAbs_pos.mpr (Rat.num_ne_zero.mpr hq)) q.den_pos).1
  rw [natAbs_num_div_den] at hexp
  have hunit : unitOf q + 23 = max (binaryExponent q.num.natAbs q.den) (-126) := by
    unfold unitOf unitExponent
    omega
  rcases le_total (-126) (binaryExponent q.num.natAbs q.den) with he | he
  · rwa [hunit, max_eq_left he]
  · rw [hunit, max_eq_right he]
    exact h.resolve_left (by omega)

theorem unitOf_le_of_abs_lt {q : Rat} (hq : q ≠ 0) {e : Int} (he : -126 ≤ e) (h : |q| < 2 ^ (e + 1)) :
    unitOf q ≤ e - 23 := by
  by_contra hlt
  have hle := two_zpow_unitOf_le hq (.inl (by omega))
  have := (zpow_lt_zpow_iff_right₀ (one_lt_two (α := Rat))).mp (hle.trans_lt h)
  omega

theorem significandOf_error (q : Rat) :
    |(significandOf q : Rat) - |q| / 2 ^ unitOf q| ≤ 1 / 2 ∧
      (|(significandOf q : Rat) - |q| / 2 ^ unitOf q| = 1 / 2 → significandOf q % 2 = 0) := by
  rw [← natAbs_num_div_den q, ← scaled_div]
  exact roundHalfEven_error _ (Nat.mul_pos q.den_pos (by positivity))

theorem le_significandOf {q : Rat} {m : Nat} (h : m * 2 ^ unitOf q ≤ |q|) : m ≤ significandOf q := by
  have herror := abs_sub_le_iff.mp (significandOf_error q).1
  rw [← le_div_iff₀ (by positivity)] at h
  have : (m : Rat) < significandOf q + 1 := by linarith
  exact Nat.lt_succ_iff.mp (by exact_mod_cast this)

theorem significandOf_lt {q : Rat} {m : Nat} (h : |q| < (m - 1 / 2) * 2 ^ unitOf q) : significandOf q < m := by
  have herror := abs_sub_le_iff.mp (significandOf_error q).1
  rw [← div_lt_iff₀ (by positivity)] at h
  have : (significandOf q : Rat) < m := by linarith
  exact_mod_cast this

theorem significandOf_le {q : Rat} (hq : q ≠ 0) : significandOf q ≤ 2 ^ 24 := by
  have h := abs_lt_two_zpow_unitOf hq
  refine Nat.lt_succ_iff.mp (significandOf_lt (h.trans_le ?_))
  rw [add_comm, zpow_add₀ two_ne_zero]
  gcongr
  norm_num

theorem le_significandOf_of_normal {q : Rat} (hq : q ≠ 0) (h : unitOf q ≠ -149 ∨ 2 ^ (-126 : Int) ≤ |q|) :
    2 ^ 23 ≤ significandOf q := by
  refine le_significandOf (le_trans (le_of_eq ?_) (two_zpow_unitOf_le hq h))
  rw [add_comm, zpow_add₀ two_ne_zero]
  norm_cast

theorem magnitudeOf_eq_min {q : Rat} (hq : q ≠ 0) :
    magnitudeOf q = min ((unitOf q + 149).toNat * 2 ^ 23 + significandOf q) (255 * 2 ^ 23) :=
  if_neg (Int.natAbs_ne_zero.mpr (Rat.num_ne_zero.mpr hq))

/-- Below the threshold of overflow the exponent field stays below 255. -/
theorem magnitude_lt_of_abs_lt {q : Rat} (hq : q ≠ 0) (h : |q| < 2 ^ 128 - 2 ^ 103) :
    (unitOf q + 149).toNat * 2 ^ 23 + significandOf q < 255 * 2 ^ 23 := by
  have hle : unitOf q ≤ 127 - 23 := unitOf_le_of_abs_lt hq (by norm_num) (h.trans (by norm_num))
  have hs := significandOf_le hq
  rcases lt_or_eq_of_le hle with hlt | heq
  · omega
  · have : significandOf q < 2 ^ 24 := significandOf_lt (by rw [heq]; norm_num at h ⊢; exact h)
    rw [heq]
    omega

theorem magnitudeOf_eq {q : Rat} (hq : q ≠ 0) (h : |q| < 2 ^ 128 - 2 ^ 103) :
    magnitudeOf q = (unitOf q + 149).toNat * 2 ^ 23 + significandOf q := by
  rw [magnitudeOf_eq_min hq, min_eq_left (magnitude_lt_of_abs_lt hq h).le]

end Sys2Proof.Machine
end

section
/-! PROOFS. The default `TO_FLOAT` rounds to a nearest value of the format, the even one where two are as near
(spec/43_calibration.md R218). A value of the format is a whole number of `q`'s units, or further from `q` than one. -/

namespace Sys2Proof.Machine

theorem abs_mul_unit_sub_abs (q c : Rat) : |c * 2 ^ unitOf q - (|q|)| = |c - |q| / 2 ^ unitOf q| * 2 ^ unitOf q := by
  have hpos : (0 : Rat) < 2 ^ unitOf q := by positivity
  conv_rhs => rw [← abs_of_pos hpos, ← abs_mul, abs_of_pos hpos]
  rw [sub_mul, div_mul_cancel₀ _ hpos.ne']

/-- No whole number of units is nearer to `|q|` than the significand, and none other as near unless it is even. -/
theorem significandOf_nearest_unit (q : Rat) (t : Int) :
    |significandOf q * 2 ^ unitOf q - (|q|)| ≤ |t * 2 ^ unitOf q - (|q|)| ∧
      (|significandOf q * 2 ^ unitOf q - (|q|)| = |t * 2 ^ unitOf q - (|q|)| → t ≠ significandOf q →
        significandOf q % 2 = 0) := by
  have hpos : (0 : Rat) < 2 ^ unitOf q := by positivity
  obtain ⟨hhalf, htie⟩ := significandOf_error q
  rw [abs_mul_unit_sub_abs, abs_mul_unit_sub_abs, mul_le_mul_iff_left₀ hpos, mul_left_inj' hpos.ne']
  rcases eq_or_ne t (significandOf q) with rfl | hne
  · exact ⟨le_rfl, fun _ h => absurd rfl h⟩
  · have hone : 1 ≤ |(t : Rat) - significandOf q| := by exact_mod_cast Int.one_le_abs (sub_ne_zero.mpr hne)
    have htriangle := abs_sub_le (t : Rat) (|q| / 2 ^ unitOf q) (significandOf q)
    rw [abs_sub_comm (|q| / 2 ^ unitOf q)] at htriangle
    exact ⟨by linarith, fun heq _ => htie (by linarith)⟩

/-- A value of the format: an integer of 24 bits in units of a power of two not below the subnormals' unit. -/
def OnFloatGrid (y : Rat) : Prop := ∃ a e : Int, |a| < 2 ^ 24 ∧ -149 ≤ e ∧ y = a * 2 ^ e

theorem OnFloatGrid.neg {y : Rat} : OnFloatGrid y → OnFloatGrid (-y)
  | ⟨a, e, ha, he, hy⟩ => ⟨-a, e, by rwa [abs_neg], he, by rw [hy]; push_cast; ring⟩

theorem onFloatGrid_floatValue (x : Float32Bits) : OnFloatGrid (floatValue x) := by
  have hfrac : floatFraction x < 2 ^ 23 := by
    rw [floatFraction_eq]
    exact Nat.mod_lt _ (by norm_num)
  have hmagnitude : OnFloatGrid (fieldsValue (floatExponent x) (floatFraction x)) := by
    unfold fieldsValue
    split
    · exact ⟨floatFraction x, -149, abs_lt.mpr (by omega), le_rfl, by norm_cast⟩
    · exact ⟨2 ^ 23 + floatFraction x, floatExponent x - 150, abs_lt.mpr (by omega), by omega, by norm_cast⟩
  rw [floatValue_eq]
  split
  · rw [neg_one_mul]
    exact hmagnitude.neg
  · rwa [one_mul]

/-- A value of the format is a whole number of `q`'s units, or such a number lies between it and `|q|`: the least
magnitude with that unit. -/
theorem OnFloatGrid.unit_cases {q y : Rat} (hq : q ≠ 0) (hy : OnFloatGrid y) :
    (∃ t : Int, y = t * 2 ^ unitOf q) ∨ ∃ t : Int, y < t * 2 ^ unitOf q ∧ t * 2 ^ unitOf q ≤ |q| := by
  obtain ⟨a, e, ha, he, rfl⟩ := hy
  rcases le_or_gt (unitOf q) e with hle | hlt
  · obtain ⟨j, rfl⟩ := Int.le.dest hle
    refine .inl ⟨a * 2 ^ j, ?_⟩
    rw [zpow_add₀ two_ne_zero, zpow_natCast]
    push_cast
    ring
  · refine .inr ⟨2 ^ 23, ?_, ?_⟩ <;> rw [Int.cast_pow, Int.cast_ofNat]
    · have ha' : (a : Rat) < 2 ^ 24 := by exact_mod_cast (le_abs_self a).trans_lt ha
      calc (a : Rat) * 2 ^ e < 2 ^ 24 * 2 ^ e := by gcongr
        _ = 2 ^ 23 * 2 ^ (e + 1) := by rw [zpow_add_one₀ two_ne_zero]; ring
        _ ≤ 2 ^ 23 * 2 ^ unitOf q := by gcongr; exacts [one_le_two, hlt]
    · have hleast := two_zpow_unitOf_le hq (.inl (by omega))
      rwa [add_comm, zpow_add₀ two_ne_zero] at hleast

/-- `significandOf_nearest_unit` for every value of the format. -/
theorem OnFloatGrid.significandOf_nearest {q y : Rat} (hq : q ≠ 0) (hy : OnFloatGrid y) :
    |significandOf q * 2 ^ unitOf q - (|q|)| ≤ |y - (|q|)| ∧
      (|significandOf q * 2 ^ unitOf q - (|q|)| = |y - (|q|)| → y ≠ significandOf q * 2 ^ unitOf q →
        significandOf q % 2 = 0) := by
  rcases hy.unit_cases hq with ⟨t, rfl⟩ | ⟨t, hlt, hle⟩
  · obtain ⟨hnearest, htie⟩ := significandOf_nearest_unit q t
    exact ⟨hnearest, fun heq hne => htie heq fun h => hne (by rw [h, Int.cast_natCast])⟩
  · have hfurther : |t * 2 ^ unitOf q - (|q|)| < |y - (|q|)| := by
      rw [abs_sub_comm, abs_of_nonneg (sub_nonneg.mpr hle), abs_sub_comm, abs_of_pos (sub_pos.mpr (hlt.trans_le hle))]
      exact sub_lt_sub_left hlt _
    have hstrict := (significandOf_nearest_unit q t).1.trans_lt hfurther
    exact ⟨hstrict.le, fun heq => absurd heq hstrict.ne⟩

theorem floatValue_toFloat {q : Rat} (hq : q ≠ 0) (h : |q| < 2 ^ 128 - 2 ^ 103) :
    floatValue (toFloat q) = (if q < 0 then -1 else 1) * (significandOf q * 2 ^ unitOf q) := by
  have hk : ((unitOf q + 149).toNat : Int) - 149 = unitOf q := by
    have := neg_149_le_unitOf q
    omega
  have hnormal : (unitOf q + 149).toNat = 0 ∨ 2 ^ 23 ≤ significandOf q := by
    by_cases hunit : unitOf q = -149
    · exact .inl (by omega)
    · exact .inr (le_significandOf_of_normal hq (.inl hunit))
  rw [floatValue_eq, msb_toFloat, floatExponent_toFloat, floatFraction_toFloat, magnitudeOf_eq hq h,
    fieldsValue_add (significandOf_le hq) hnormal, hk]
  simp only [decide_eq_true_eq]

theorem floatFinite_toFloat {q : Rat} (h : |q| < 2 ^ 128 - 2 ^ 103) : floatFinite (toFloat q) := by
  rw [floatFinite, floatExponent_toFloat]
  rcases eq_or_ne q 0 with rfl | hq
  · rw [magnitudeOf_zero]
    norm_num
  · have := magnitude_lt_of_abs_lt hq h
    rw [magnitudeOf_eq hq h]
    omega

theorem toFloat_nearest {q y : Rat} (h : |q| < 2 ^ 128 - 2 ^ 103) (hy : OnFloatGrid y) :
    |floatValue (toFloat q) - q| ≤ |y - q| ∧
      (|floatValue (toFloat q) - q| = |y - q| → y ≠ floatValue (toFloat q) → (toFloat q).getLsbD 0 = false) := by
  rcases eq_or_ne q 0 with rfl | hq
  · have hzero : floatValue (toFloat 0) = 0 := by simp [floatValue_eq, fieldsValue, magnitudeOf_zero]
    rw [hzero, sub_zero, sub_zero, abs_zero]
    exact ⟨abs_nonneg y, fun heq hne => absurd (abs_eq_zero.mp heq.symm) hne⟩
  · have heven : significandOf q % 2 = 0 → (toFloat q).getLsbD 0 = false := by
      rw [toFloat_even_iff, magnitudeOf_eq hq h]
      omega
    rw [floatValue_toFloat hq h]
    rcases lt_or_ge q 0 with hneg | hpos
    · obtain ⟨hle, htie⟩ := hy.neg.significandOf_nearest hq
      have hflip : ∀ c : Rat, |c - (|q|)| = |-c - q| := fun c => by
        rw [abs_of_neg hneg, ← abs_neg]
        ring_nf
      rw [hflip, hflip, neg_neg] at hle htie
      rw [if_pos hneg, neg_one_mul]
      exact ⟨hle, fun heq hne => heven (htie heq fun h => hne (by rw [← h, neg_neg]))⟩
    · obtain ⟨hle, htie⟩ := hy.significandOf_nearest hq
      rw [abs_of_nonneg hpos] at hle htie
      rw [if_neg hpos.not_gt, one_mul]
      exact ⟨hle, fun heq hne => heven (htie heq hne)⟩

/-- Settles O53: every pattern's value is a value of the format, of which the rounded significand is the nearest. -/
theorem toFloatRoundsToNearestEven : Obligations.ToFloatRoundsToNearestEven :=
  ⟨toFloat_zero, fun _ hq => ⟨floatFinite_toFloat hq, fun x _ => toFloat_nearest hq (onFloatGrid_floatValue x)⟩⟩

end Sys2Proof.Machine
end

section
/-! PROOFS. What `toFloat` makes of the exact calibrated values (spec/43_calibration.md R219, R221): each is an integer
over a small scale, so in the format's normal range. -/

namespace Sys2Proof.Machine

theorem abs_intCast_div_lt {a : Int} {b : Rat} (ha : |a| < 2 ^ 24) (hb : 1 ≤ b) : |(a : Rat) / b| < 2 ^ 24 := by
  rw [abs_div, abs_of_pos (zero_lt_one.trans_le hb)]
  exact (div_le_self (abs_nonneg _) hb).trans_lt (by exact_mod_cast ha)

/-! ### Exact results -/

/-- A value of the format is its own nearest. -/
theorem OnFloatGrid.floatValue_toFloat {q : Rat} (hq : OnFloatGrid q) (h : |q| < 2 ^ 128 - 2 ^ 103) :
    floatValue (toFloat q) = q := by
  have hnearest := (toFloat_nearest h hq).1
  rw [sub_self, abs_zero] at hnearest
  exact sub_eq_zero.mp (abs_nonpos_iff.mp hnearest)

/-- The accelerometer's scales are powers of two. -/
theorem onFloatGrid_accelExact (mode : RawSignedness) (acc : AccelRange) (w : Word) :
    OnFloatGrid (accelExact mode acc w) := by
  have hscale : ∃ e : Int, -149 ≤ e ∧ (accelLsb acc)⁻¹ = 2 ^ e := by
    cases acc with
    | g2 => exact ⟨-14, by norm_num, by norm_num [accelLsb]⟩
    | g4 => exact ⟨-13, by norm_num, by norm_num [accelLsb]⟩
    | g8 => exact ⟨-12, by norm_num, by norm_num [accelLsb]⟩
    | g16 => exact ⟨-11, by norm_num, by norm_num [accelLsb]⟩
  obtain ⟨e, he, hscale⟩ := hscale
  exact ⟨rawval mode w, e, (abs_rawval_lt mode w).trans (by norm_num), he, by rw [accelExact, div_eq_mul_inv, hscale]⟩

/-- Settles O50: the exact quotient is a value of the format, far below the threshold of overflow. -/
theorem accelerometerResultsAreExact : Obligations.AccelerometerResultsAreExact := by
  intro mode acc w
  have hlt : |accelExact mode acc w| < 2 ^ 128 - 2 ^ 103 :=
    (abs_intCast_div_lt ((abs_rawval_lt mode w).trans (by norm_num)) (accelLsb_bounds acc).1).trans (by norm_num)
  exact ⟨floatFinite_toFloat hlt, (onFloatGrid_accelExact mode acc w).floatValue_toFloat hlt⟩

/-! ### Zero or normal -/

theorem floatZeroOrNormal_toFloat {q : Rat} (hq : q ≠ 0) (hlo : 2 ^ (-126 : Int) ≤ |q|)
    (hhi : |q| < 2 ^ 128 - 2 ^ 103) : floatZeroOrNormal (toFloat q) := by
  have hs := le_significandOf_of_normal hq (.inr hlo)
  refine .inr ⟨?_, floatFinite_toFloat hhi⟩
  rw [floatExponent_toFloat, magnitudeOf_eq hq hhi]
  omega

/-- An integer of 24 bits over a scale between 1 and 2^14 is 0 or normal. -/
theorem floatZeroOrNormal_toFloat_div {a : Int} {b : Rat} (ha : |a| < 2 ^ 24) (hb : 1 ≤ b) (hb' : b ≤ 2 ^ 14) :
    floatZeroOrNormal (toFloat (a / b)) := by
  have hpos : 0 < b := zero_lt_one.trans_le hb
  rcases eq_or_ne a 0 with rfl | hne
  · rw [Int.cast_zero, zero_div]
    exact .inl toFloat_zero
  · have hone : (1 : Rat) ≤ |(a : Rat)| := by exact_mod_cast Int.one_le_abs hne
    refine floatZeroOrNormal_toFloat (div_ne_zero (Int.cast_ne_zero.mpr hne) hpos.ne') ?_
      ((abs_intCast_div_lt ha hb).trans (by norm_num))
    rw [abs_div, abs_of_pos hpos, zpow_neg, ← one_div]
    exact div_le_div₀ (abs_nonneg _) hone hpos (hb'.trans (by norm_num))

/-- Both formulas give a whole number of 1700ths. -/
theorem temperature_eq_div (formula : TempFormula) (t : Int) :
    ∃ c : Int, |c| ≤ 5 ∧ temperature formula t = ((c * t + 62101 : Int) : Rat) / 1700 := by
  cases formula with
  | datasheet => exact ⟨5, by norm_num, by simp only [temperature]; push_cast; ring⟩
  | reference => exact ⟨-5, by norm_num, by simp only [temperature]; push_cast; ring⟩

theorem floatZeroOrNormal_temperature (p : Params) (w : Word) : floatZeroOrNormal (toFloat (temperatureExact p w)) := by
  obtain ⟨c, hc, hdiv⟩ := temperature_eq_div p.tempFormula (rawval p.rawSignedness w)
  rw [temperatureExact, hdiv]
  refine floatZeroOrNormal_toFloat_div ?_ (by norm_num) (by norm_num)
  calc |c * rawval p.rawSignedness w + 62101| ≤ |c * rawval p.rawSignedness w| + |62101| := abs_add_le _ _
    _ = |c| * |rawval p.rawSignedness w| + 62101 := by rw [abs_mul]; rfl
    _ ≤ 5 * 2 ^ 16 + 62101 := by gcongr; exact (abs_rawval_lt _ w).le
    _ < 2 ^ 24 := by norm_num

/-- Settles O51: by the group of the entry; each exact value is an integer over a scale. -/
theorem calibrationResultsAreZeroOrNormal : Obligations.CalibrationResultsAreZeroOrNormal := by
  intro p r acc gyr k
  have hraw : ∀ w, |rawval p.rawSignedness w| < 2 ^ 24 := fun w => (abs_rawval_lt _ w).trans (by norm_num)
  unfold calibrate
  rcases entry_cases k with hk | rfl | hk
  · rw [calibrateWith_get_of_le_two toFloat p r acc gyr hk]
    exact floatZeroOrNormal_toFloat_div (hraw _) (accelLsb_bounds acc).1 (accelLsb_bounds acc).2
  · rw [calibrateWith_get_three]
    exact floatZeroOrNormal_temperature p _
  · rw [calibrateWith_get_of_four_le toFloat p r acc gyr hk]
    exact floatZeroOrNormal_toFloat_div (hraw _) (gyroLsb_bounds gyr).1 (gyroLsb_bounds gyr).2

/-! ### Opposite words -/

theorem rawval_signed_ne_zero {w : Word} (h : w ≠ 0) : rawval .signed w ≠ 0 :=
  fun hraw => h (BitVec.eq_of_toInt_eq hraw)

theorem rawval_signed_neg {w : Word} (h : w ≠ 0x8000) : rawval .signed (-w) = -rawval .signed w :=
  BitVec.toInt_neg_of_ne_intMin h

/-- R221: opposite words give opposite quotients at any scale, and so patterns that differ in the sign bit. -/
theorem toFloat_rawval_neg_div {w : Word} (hzero : w ≠ 0) (hmin : w ≠ 0x8000) {lsb : Rat} (h : 0 < lsb) :
    toFloat (rawval .signed (-w) / lsb) = toFloat (rawval .signed w / lsb) ^^^ 0x80000000 := by
  rw [rawval_signed_neg hmin, Int.cast_neg, neg_div]
  exact toFloat_neg (div_ne_zero (Int.cast_ne_zero.mpr (rawval_signed_ne_zero hzero)) h.ne')

/-- Settles O52: both groups of entries divide the raw word by a positive scale. -/
theorem calibrationIsOdd : Obligations.CalibrationIsOdd := fun _ acc gyr hzero hmin =>
  ⟨toFloat_rawval_neg_div hzero hmin (accelLsb_pos acc), toFloat_rawval_neg_div hzero hmin (gyroLsb_pos gyr)⟩

end Sys2Proof.Machine
end

section
/-! PROOFS. The numeric code of each error kind and the kind of each status (spec/60_exceptions.md R250,
spec/00_scope.md R17). -/

namespace Sys2Proof.Machine

theorem errorCode_lt_six (k : ErrorKind) : (errorCode k).toNat < 6 := by cases k <;> decide

/-- Settles O29: by the kinds and the statuses, one by one. -/
theorem errorCodesAndStatusKinds : Obligations.ErrorCodesAndStatusKinds :=
  ⟨⟨rfl, rfl, rfl, rfl, rfl, rfl⟩, errorCode_lt_six, rfl, rfl, rfl, rfl⟩

end Sys2Proof.Machine
end

section
/-! PROOFS. From every place of a command's pseudocode the block comes to Idle within the steps that `step` allows it, so
every command has an end, and the block never stops with a fault (spec/60_exceptions.md R259). -/

namespace Sys2Proof.Machine

theorem enintLeft_le (k : Nat) (l : Locals) : enintLeft k l ≤ 6 := by fun_cases enintLeft k l <;> omega

theorem readLeft_le (k : Nat) (l : Locals) : readLeft k l ≤ 4 := by fun_cases readLeft k l <;> omega

theorem scanLeft_le (k : Nat) (l : Locals) : scanLeft k l ≤ 274 := by fun_cases scanLeft k l <;> omega

/-- Wherever it stands, a command has no more steps left than INIT has at its start. -/
theorem stepsLeft_le (i : Instr) (p : Position) (l : Locals) : stepsLeft i p l ≤ 276 := by
  cases i with
  | setacc | setgyr | setdiv | wake => exact (Nat.sub_le _ _).trans (by decide)
  | enint => exact (enintLeft_le _ _).trans (by decide)
  | read => exact (readLeft_le _ _).trans (by decide)
  | find => exact (scanLeft_le _ _).trans (by decide)
  | init =>
    have hscan := scanLeft_le p.step l
    have henint := enintLeft_le p.step l
    simp only [stepsLeft]
    split <;> omega

theorem State.remaining_le (s : State) : s.remaining ≤ 276 := by
  cases hs : s.seq with
  | idle => exact (remaining_of_idle hs).le.trans (Nat.zero_le _)
  | run i p l => exact (remaining_of_run hs).le.trans (stepsLeft_le i p l)

/-- At a place of its pseudocode a command comes to its end. -/
theorem State.OnCourse.untilIdle_seq {i : Instr} {s : State} (h : s.OnCourse i) :
    (untilIdle stepBound (commandStep i) s).seq = .idle := by
  obtain ⟨k, -, ⟨hidle, -⟩, hrun⟩ := h.exists_firstIdleAfter 276 s s.remaining_le
  rw [hrun stepBound (by decide), hidle]

/-- An Idle block runs a command to its end, and there holds what its acceptance brings and every step keeps. -/
theorem exec_of_idle {i : Instr} {s : State} {P : State → Prop} (hs : s.seq = .idle)
    (start : P (s.running i ⟨0, 0⟩ Locals.empty))
    (step : ∀ p l u, u.seq = .run i p l → Position.legal i p → P u → P (blockStep u)) :
    ∃ t, exec i s = .next t ∧ t.seq = .idle ∧ P t := by
  have hcourse := State.onCourse_running (Position.legal_zero i) Locals.empty s
  rw [exec_eq_runCommand, runCommand_idle _ _ hs]
  exact ⟨_, rfl, hcourse.untilIdle_seq, hcourse.untilIdle_induction start step _⟩

theorem resume_of_onCourse {i : Instr} {s : State} (h : s.OnCourse i) :
    resume i s = .next (untilIdle stepBound (commandStep i) s) := by
  simp [resume, h.untilIdle_seq]

/-- No meaning faults. -/
theorem exec_ne_fault (i : Instr) (s : State) (f : Fault) : exec i s ≠ .fault f := by
  rw [exec_eq_runCommand]
  unfold runCommand
  split <;> exact nofun

/-- An Idle block waits, runs a command or refuses a word. -/
theorem step_ne_fault_of_idle {s : State} (hs : s.seq = .idle) (f : Fault) : step s ≠ .fault f := by
  simp only [step, hs]
  split
  · exact nofun
  · split
    · exact exec_ne_fault _ _ f
    · exact nofun

theorem step_of_run {s : State} {i : Instr} {p : Position} {l : Locals} (hs : s.seq = .run i p l) :
    step s = resume i s := by simp only [step, hs]

/-- Settles O32: an Idle block waits, refuses a word or runs a command, and a running one comes to its end. -/
theorem blockNeverFaults : Obligations.BlockNeverFaults := by
  intro s f hinv
  obtain ⟨-, hseq⟩ := hinv
  cases hs : s.seq with
  | idle => exact step_ne_fault_of_idle hs f
  | run i p l =>
    rw [step_of_run hs, resume_of_onCourse (.inr ⟨p, l, hs, hseq.legal hs⟩)]
    exact nofun

end Sys2Proof.Machine
end

section
/-! PROOFS. How a step of the block can leave a command, at any place the sequencer stands: the command goes on, has
succeeded or has raised an error, and reports a result just as it ends (spec/10_state.md R35, spec/60_exceptions.md R256). -/

namespace Sys2Proof.Machine

/-- How a step from `s` can leave a command. One that raises an error has issued requests and done nothing else. -/
inductive StepOutcome (s : State) : State → Prop where
  | goesOn {t : State} (hseq : t.seq ≠ .idle) (hresults : t.results = s.results) : StepOutcome s t
  | succeeded (t : State) (hresults : t.results = s.results) : StepOutcome s (t.withResult .noError)
  | raised (rs : List Request) (k : ErrorKind) : StepOutcome s ((s.afterRequests rs).withResult k)

namespace StepOutcome

variable {i : Instr} {p : Position} {j : Nat} {l : Locals} {s t : State}

theorem raised_without_requests (k : ErrorKind) (s : State) : StepOutcome s (s.withResult k) := by
  simpa only [State.afterRequests_nil] using raised (s := s) [] k

theorem succeedAt (hresults : t.results = s.results) : StepOutcome s (t.succeedAt i j) := by
  unfold State.succeedAt
  split
  · exact goesOn nofun hresults
  · exact succeeded t hresults

theorem succeed (hresults : t.results = s.results) : StepOutcome s (t.running i p l).succeed := succeedAt hresults

theorem requireAddress : StepOutcome s (s.running i p l).requireAddress := by
  rw [State.requireAddress_running]
  split
  · exact raised_without_requests _ s
  · exact goesOn nofun rfl

theorem memWriteStep (reg v : Byte) (next : Nat) : StepOutcome s ((s.running i p l).memWriteStep reg v next) := by
  rw [State.memWriteStep_running]
  split
  · exact raised _ _
  · exact goesOn nofun rfl

theorem memReadStep (reg : Byte) (n next : Nat) (upd : List Byte → Locals → Locals) :
    StepOutcome s ((s.running i p l).memReadStep reg n fun b t => (t.mapLocals (upd b)).goto next) := by
  cases hl : l.pointerSet with
  | false =>
    rw [State.memReadStep_select _ _ _ _ _ _ _ hl]
    split
    · exact raised _ _
    · exact goesOn nofun rfl
  | true =>
    rw [State.memReadStep_fetch _ _ _ _ _ _ _ hl]
    split
    · exact raised _ _
    · exact goesOn nofun rfl

/-- SETACC's, SETGYR's, SETDIV's and WAKE's steps, on their own or in INIT. -/
theorem singleWrite (f : State → State) {reg v : Byte} {upd : State → State}
    (h0 : f (s.running i ⟨j, 0⟩ l) = (s.running i ⟨j, 0⟩ l).requireAddress)
    (h1 : f (s.running i ⟨j, 1⟩ l) = (s.running i ⟨j, 1⟩ l).memWriteStep reg v 2)
    (h2 : f (s.running i ⟨j, 2⟩ l) = ((upd s).running i ⟨j, 2⟩ l).succeed)
    (h3 : ∀ k, f (s.running i ⟨j, k + 3⟩ l) = s.running i ⟨j, k + 3⟩ l)
    (hupd : (upd s).results = s.results) (k : Nat) : StepOutcome s (f (s.running i ⟨j, k⟩ l)) := by
  match k with
  | 0 => exact h0 ▸ requireAddress
  | 1 => exact h1 ▸ memWriteStep reg v 2
  | 2 => exact h2 ▸ succeed hupd
  | k + 3 =>
    rw [h3]
    exact goesOn nofun rfl

theorem enintStep (k : Nat) : StepOutcome s (enintStep (s.running i ⟨j, k⟩ l)) := by
  match k with
  | 0 => exact requireAddress
  | 1 => exact memWriteStep _ _ _
  | 2 => exact memReadStep _ _ _ fun b l => { l with v := b.getD 0 0 }
  | 3 => exact memWriteStep _ _ _
  | 4 => exact succeed rfl
  | k + 5 => exact goesOn nofun rfl

theorem readStep (k : Nat) : StepOutcome s (readStep (s.running i ⟨j, k⟩ l)) := by
  match k with
  | 0 => exact requireAddress
  | 1 => exact memReadStep _ _ _ fun b l => { l with b := b }
  | 2 => exact succeed (t := (s.running i ⟨j, 2⟩ l).storeBurst) rfl
  | k + 3 => exact goesOn nofun rfl

theorem scanStep (lo hi k : Nat) : StepOutcome s (scanStep lo hi (s.running i ⟨j, k⟩ l)) := by
  match k with
  | 0 => exact goesOn nofun rfl
  | 1 =>
    rw [scanStep_running_one]
    split
    · exact goesOn nofun rfl
    · split
      · exact succeedAt rfl
      · exact goesOn nofun rfl
  | 2 => exact raised_without_requests _ s
  | k + 3 => exact goesOn nofun rfl

theorem initStep (acc : AccelRange) (gyr : GyroRange) (d : Byte) (k : Nat) :
    StepOutcome s (initStep acc gyr d (s.running i ⟨j, k⟩ l)) := by
  match j with
  | 0 | 1 => exact goesOn nofun rfl
  | 2 => exact scanStep _ _ k
  | 3 => exact singleWrite wakeStep (upd := id) rfl rfl rfl (fun _ => rfl) rfl k
  | 4 => exact singleWrite (setaccStep acc) (upd := State.setAccelRange acc) rfl rfl rfl (fun _ => rfl) rfl k
  | 5 => exact singleWrite (setgyrStep gyr) (upd := State.setGyroRange gyr) rfl rfl rfl (fun _ => rfl) rfl k
  | 6 => exact singleWrite (setdivStep d) (upd := State.setDivider d) rfl rfl rfl (fun _ => rfl) rfl k
  | 7 => exact enintStep k
  | 8 => exact succeed rfl
  | j + 9 => exact goesOn nofun rfl

theorem commandStep (i : Instr) (p : Position) (l : Locals) (s : State) :
    StepOutcome s (commandStep i (s.running i p l)) := by
  obtain ⟨j, k⟩ := p
  cases i with
  | setacc acc => exact singleWrite (setaccStep acc) (upd := State.setAccelRange acc) rfl rfl rfl (fun _ => rfl) rfl k
  | setgyr gyr => exact singleWrite (setgyrStep gyr) (upd := State.setGyroRange gyr) rfl rfl rfl (fun _ => rfl) rfl k
  | setdiv d => exact singleWrite (setdivStep d) (upd := State.setDivider d) rfl rfl rfl (fun _ => rfl) rfl k
  | wake => exact singleWrite wakeStep (upd := id) rfl rfl rfl (fun _ => rfl) rfl k
  | enint => exact enintStep k
  | find first last => exact scanStep _ _ k
  | init acc gyr d => exact initStep acc gyr d k
  | read => exact readStep k

theorem blockStep (hs : s.seq ≠ .idle) : StepOutcome s (blockStep s) := by
  cases hrun : s.seq with
  | idle => exact absurd hrun hs
  | run i p l =>
    have h := commandStep i p l s
    rwa [← State.eq_running hrun, ← blockStep_of_run hrun] at h

end StepOutcome

/-- Settles O41: a step that ends a command with an error is one that raises it. -/
theorem errorsArePrecise : Obligations.ErrorsArePrecise := by
  intro s hrun hidle herr
  have houtcome := StepOutcome.blockStep hrun
  generalize blockStep s = t at *
  cases houtcome with
  | goesOn hbusy => exact absurd hidle hbusy
  | succeeded => exact absurd rfl herr
  | raised => exact ⟨rfl, rfl, rfl, rfl, rfl, rfl, rfl⟩

/-! ### A whole command reports one result -/

/-- A command accepted in state `s` and now in state `u` is running and has reported nothing, or has ended and has
reported what `err` holds. -/
def ReportsAtItsEnd (s u : State) : Prop :=
  (u.seq ≠ .idle ∧ u.results = s.results) ∨
    (u.seq = .idle ∧ ∃ k, u.results = s.results ++ [k] ∧ u.err = { kind := k, msg := Config.errMsg k })

theorem ReportsAtItsEnd.blockStep {s u : State} (hu : u.seq ≠ .idle) (h : ReportsAtItsEnd s u) :
    ReportsAtItsEnd s (blockStep u) := by
  rcases h with ⟨-, h⟩ | ⟨hidle, -⟩
  · have houtcome := StepOutcome.blockStep hu
    generalize Machine.blockStep u = v at houtcome
    cases houtcome with
    | goesOn hseq hresults => exact .inl ⟨hseq, hresults.trans h⟩
    | succeeded t hresults => exact .inr ⟨rfl, .noError, by simp [hresults, h], rfl⟩
    | raised rs k => exact .inr ⟨rfl, k, by simp [h], rfl⟩
  · exact absurd hidle hu

/-- Settles O30: the step that ends a command reports its one result. -/
theorem everyCommandEndsWithOneResult : Obligations.EveryCommandEndsWithOneResult := by
  intro s i hs
  obtain ⟨t, hexec, hidle, hreports⟩ := exec_of_idle (i := i) (P := ReportsAtItsEnd s) hs (.inl ⟨nofun, rfl⟩)
    fun _ _ _ hu _ hreports => hreports.blockStep (hu ▸ nofun)
  rcases hreports with ⟨hbusy, -⟩ | ⟨-, k, hresults, herr⟩
  · exact absurd hidle hbusy
  · exact ⟨t, k, hexec, hidle, hresults, herr⟩

end Sys2Proof.Machine
end

section
/-! PROOFS. NotConfigured (spec/60_exceptions.md R252): raised at step 0 of a register body, which FIND does not have and
INIT comes to only after its scan has set the address. -/

namespace Sys2Proof.Machine

/-- NotConfigured is not what an Idle block's `err` holds, and a running register body has its address set. -/
def State.NeverNotConfigured (s : State) : Prop :=
  match s.seq with
  | .idle => s.err.kind ≠ .notConfigured
  | .run i p _ => Position.inRegisterBody i p → s.cfg.address ≠ 0

section Steps

variable {i : Instr} {p : Position} {l : Locals} {s t : State}

theorem State.NeverNotConfigured.err_kind (h : s.NeverNotConfigured) (hs : s.seq = .idle) :
    s.err.kind ≠ .notConfigured := by
  simpa only [NeverNotConfigured, hs] using h

theorem neverNotConfigured_withResult {k : ErrorKind} (hk : k ≠ .notConfigured) :
    (s.withResult k).NeverNotConfigured := hk

theorem neverNotConfigured_running (h : Position.inRegisterBody i p → s.cfg.address ≠ 0) :
    (s.running i p l).NeverNotConfigured := h

theorem neverNotConfigured_succeedAt (ha : s.cfg.address ≠ 0) (j : Nat) : (s.succeedAt i j).NeverNotConfigured := by
  unfold State.succeedAt
  split
  · exact neverNotConfigured_running fun _ => ha
  · exact neverNotConfigured_withResult nofun

/-- INIT's steps before its step 3 run no register body (R170). -/
theorem not_inRegisterBody_of_initStep_lt (hi : Instr.isInit i = true) (hp : p.initStep < 3) :
    ¬ Position.inRegisterBody i p := by
  cases i with
  | init acc gyr d =>
    rintro ⟨h3, -⟩
    omega
  | setacc | setgyr | setdiv | wake | enint | find | read => cases hi

theorem BlockEffect.neverNotConfigured (h : BlockEffect i p l s t) (hq : (s.running i p l).SequencerSound)
    (ha : Position.inRegisterBody i p → s.cfg.address ≠ 0) : t.NeverNotConfigured := by
  obtain ⟨-, -, hscan⟩ := hq
  cases h with
  | none => exact neverNotConfigured_running ha
  | notConfigured hb _ hzero => exact absurd hzero (ha hb)
  | addressed hb | answered _ _ _ hb => exact neverNotConfigured_running fun _ => ha hb
  | failed _ _ _ _ _ hs =>
    obtain ⟨-, -, hk, -⟩ := failKind_some hs
    exact neverNotConfigured_withResult hk
  | updated u hb _ hu => exact neverNotConfigured_succeedAt (hu.address ▸ ha hb) _
  | found hb h1 he => exact neverNotConfigured_succeedAt (hscan hb h1 he) _
  | scanStarted _ _ hb | scanEnded hb | notAcknowledged _ hb =>
    exact neverNotConfigured_running fun hreg => absurd hreg hb.not_inRegisterBody
  | notFound | initDone => exact neverNotConfigured_withResult nofun
  | initEntered hi | initCleared hi =>
    exact neverNotConfigured_running fun hreg => absurd hreg (not_inRegisterBody_of_initStep_lt hi (by decide))

theorem State.NeverNotConfigured.blockStep (hq : s.SequencerSound) (h : s.NeverNotConfigured)
    (hs : s.seq = .run i p l) : (blockStep s).NeverNotConfigured := by
  have heffect := blockStep_effect hs (hq.legal hs)
  rw [eq_running hs] at hq h
  exact heffect.neverNotConfigured hq h

end Steps

/-- A command that does not begin with a register body never ends with NotConfigured. -/
theorem exec_ne_notConfigured {i : Instr} {s t : State} (hi : ¬ Position.inRegisterBody i ⟨0, 0⟩)
    (h : exec i s = .next t) : t.err.kind ≠ .notConfigured := by
  have hs : s.seq = .idle := (runCommand_next ((exec_eq_runCommand i s).symm.trans h)).1
  have hstart : (s.running i ⟨0, 0⟩ Locals.empty).SequencerSound ∧
      (s.running i ⟨0, 0⟩ Locals.empty).NeverNotConfigured :=
    ⟨State.sequencerSound_running_zero (Position.legal_zero i), neverNotConfigured_running fun hb => absurd hb hi⟩
  obtain ⟨u, hu, hidle, -, hnever⟩ := exec_of_idle (P := fun u => u.SequencerSound ∧ u.NeverNotConfigured) hs hstart
    fun _ _ _ hrun hp ⟨hsound, hnever⟩ =>
      ⟨(blockStep_effect hrun hp).sequencerSound (State.eq_running hrun ▸ hsound), hnever.blockStep hsound hrun⟩
  obtain rfl := Host.Outcome.next.inj (hu.symm.trans h)
  exact hnever.err_kind hidle

/-- Settles O28: the six commands begin with the check of the address, the other two do not. -/
theorem notConfiguredIsRaisedBeforeAnyTransaction : Obligations.NotConfiguredIsRaisedBeforeAnyTransaction := by
  refine ⟨fun s i hs ha hi => ?_, fun s t i hi => exec_ne_notConfigured ?_⟩
  · have hb : Position.inRegisterBody i ⟨0, 0⟩ := by
      rcases hi with ⟨_, rfl⟩ | ⟨_, rfl⟩ | ⟨_, rfl⟩ | rfl | rfl | rfl <;> trivial
    exact exec_of_address_eq_zero hs hb ha
  · rcases hi with ⟨_, _, rfl⟩ | ⟨_, _, _, rfl⟩
    · exact id
    · exact not_inRegisterBody_of_initStep_lt rfl (by decide)

end Sys2Proof.Machine
end

section
/-! PROOFS. The most transactions each command issues (spec/70_reset_and_hazards.md §4, R303): a command, whole, is
settled by the first answer that ends its scan or that is a failure, so it issues a part of a known list of requests. -/

namespace Sys2Proof.Machine

/-! ### The first answer of a kind -/

/-- Below `n` nothing has the property, or there is a first that has it. -/
theorem none_or_first_lt (P : Nat → Prop) (n : Nat) : (∀ j, j < n → ¬ P j) ∨ ∃ j, j < n ∧ P j ∧ ∀ m, m < j → ¬ P m := by
  induction n with
  | zero => exact .inl nofun
  | succ n ih =>
    rcases ih with hnone | ⟨j, hj, hP, hfirst⟩
    · by_cases hP : P n
      · exact .inr ⟨n, n.lt_succ_self, hP, hnone⟩
      · exact .inl (Nat.forall_lt_succ_right.2 ⟨hnone, hP⟩)
    · exact .inr ⟨j, Nat.lt_succ_of_lt hj, hP, hfirst⟩

/-- Of `n` answers all are `Ok`, or there is a first that fails. -/
theorem all_ok_or_first_failed (status : Nat → Status) (n : Nat) :
    (∀ j, j < n → status j = .ok) ∨
      ∃ j k, j < n ∧ (∀ m, m < j → status m = .ok) ∧ failKind (status j) = some k := by
  rcases none_or_first_lt (fun j => status j ≠ .ok) n with hall | ⟨j, hj, hne, hbefore⟩
  · exact .inl fun j hj => not_not.1 (hall j hj)
  · obtain ⟨k, hk⟩ := Option.ne_none_iff_exists'.1 (mt (failKind_eq_none_iff _).1 hne)
    exact .inr ⟨j, k, hj, fun m hm => not_not.1 (hbefore m hm), hk⟩

/-- No address of a scan list is acknowledged, or there is a first that is (R160). -/
theorem exhausted_or_first_acknowledged (status : Nat → Status) (addresses : List Byte) :
    (∀ j, j < addresses.length → status j ≠ .ok) ∨
      ∃ before a after, addresses = before ++ a :: after ∧
        (∀ j, j < before.length → status j ≠ .ok) ∧ status before.length = .ok := by
  rcases none_or_first_lt (fun j => status j = .ok) addresses.length with hno | ⟨j, hj, hok, hno⟩
  · exact .inl hno
  · have hlength : (addresses.take j).length = j := List.length_take_of_le hj.le
    refine .inr ⟨addresses.take j, addresses[j], addresses.drop (j + 1), ?_, ?_, ?_⟩
    · rw [List.getElem_cons_drop, List.take_append_drop]
    · rwa [hlength]
    · rwa [hlength]

/-! ### Each command -/

/-- From `s` command `i` comes to its end with at most `n` requests issued, one answer consumed for each. -/
def IssuesAtMost (n : Nat) (i : Instr) (s : State) : Prop :=
  ∃ (t : State) (rs : List Request), exec i s = .next t ∧ rs.length ≤ n ∧ t.traffic = (s.afterRequests rs).traffic

section Commands

variable {i : Instr} {s : State} (hs : s.seq = .idle)

include hs

/-- A register command with the address unset issues nothing (R252). -/
theorem issuesAtMost_of_address_eq_zero (hb : Position.inRegisterBody i ⟨0, 0⟩) (ha : s.cfg.address = 0) (n : Nat) :
    IssuesAtMost n i s :=
  ⟨_, [], exec_of_address_eq_zero hs hb ha, n.zero_le, by rw [State.afterRequests_nil]; rfl⟩

/-- SETACC, SETGYR, SETDIV and WAKE: the check of the address, and one write. -/
theorem WritesOneRegister.issuesAtMost {reg v : Byte} {upd : State → State} (h : WritesOneRegister i reg v upd)
    (hupd : ∀ t, (upd t).traffic = t.traffic) : IssuesAtMost 1 i s := by
  obtain ⟨-, hok, hfailed⟩ := h.exec hs
  by_cases ha : s.cfg.address = 0
  · exact issuesAtMost_of_address_eq_zero hs h.register ha 1
  · cases hk : failKind (s.statusAt 0) with
    | none => exact ⟨_, [_], hok ha ((failKind_eq_none_iff _).1 hk), le_rfl, hupd _⟩
    | some k => exact ⟨_, [_], hfailed k ha hk, le_rfl, rfl⟩

/-- ENINT: its four requests, or those up to the first that fails. -/
theorem enint_issuesAtMost : IssuesAtMost 4 .enint s := by
  by_cases ha : s.cfg.address = 0
  · exact issuesAtMost_of_address_eq_zero (i := .enint) hs trivial ha 4
  · rcases all_ok_or_first_failed s.statusAt 4 with hok | ⟨j, k, hj, hbefore, hk⟩
    · exact ⟨_, _, exec_enint_of_ok hs ha hok, le_rfl, rfl⟩
    · exact ⟨_, _, exec_enint_of_failed hs ha hj hbefore hk, List.length_take_le' _ _, rfl⟩

/-- READ: the selection of the burst's register, and on its `Ok` the burst. -/
theorem read_issuesAtMost : IssuesAtMost 2 .read s := by
  by_cases ha : s.cfg.address = 0
  · exact issuesAtMost_of_address_eq_zero (i := .read) hs trivial ha 2
  · cases hselect : failKind (s.statusAt 0) with
    | some k => exact ⟨_, [_], exec_read_of_select_failed hs ha hselect, Nat.le_succ 1, rfl⟩
    | none =>
      rw [failKind_eq_none_iff] at hselect
      cases hburst : failKind (s.statusAt 1) with
      | some k => exact ⟨_, [_, _], exec_read_of_burst_failed hs ha hselect hburst, le_rfl, rfl⟩
      | none => exact ⟨_, [_, _], exec_read_of_ok hs ha hselect ((failKind_eq_none_iff _).1 hburst), le_rfl, rfl⟩

/-- FIND: a probe of each address of its list, or of those up to the first that is acknowledged. -/
theorem find_issuesAtMost (first last : Byte) :
    IssuesAtMost (scanList s.params.scanMode first last).length (.find first last) s := by
  obtain ⟨hfound, hnone⟩ := findFollowsItsRule s first last hs
  rcases exhausted_or_first_acknowledged s.statusAt (scanList s.params.scanMode first last) with
    hno | ⟨before, a, after, hlist, hno, hok⟩
  · exact ⟨_, _, hnone hno, (List.length_map _).le, rfl⟩
  · exact ⟨_, (before ++ [a]).map probeOf, hfound before after a hlist hno hok, by simp [hlist], rfl⟩

/-- INIT: at most 254 probes, and once a device is found at most eight requests that configure it (R174, R175). Of the
scan list only the length matters. -/
theorem init_issuesAtMost (acc : AccelRange) (gyr : GyroRange) (d : Byte) : IssuesAtMost 262 (.init acc gyr d) s := by
  obtain ⟨hnone, hfound⟩ := initFollowsItsRule s acc gyr d hs
  obtain ⟨hlength, -⟩ := initScansAllAddresses
  generalize initScanList = addresses at *
  rcases exhausted_or_first_acknowledged s.statusAt addresses with hno | ⟨before, a, after, hlist, hno, hok⟩
  · rw [hlength] at hno
    exact ⟨_, addresses.map probeOf, hnone hno, ((List.length_map _).trans hlength).trans_le (by decide), rfl⟩
  · obtain ⟨hall, hfailed⟩ := hfound before after a hlist hno hok
    have hconfigured : ∀ rs : List Request, rs.length ≤ 8 → ((before ++ [a]).map probeOf ++ rs).length ≤ 262 := by
      intro rs hrs
      rw [hlist, List.length_append, List.length_cons] at hlength
      rw [List.length_append, List.length_map, List.length_append, List.length_singleton]
      omega
    rcases all_ok_or_first_failed (fun j => s.statusAt (before.length + 1 + j)) 8 with hallOk | ⟨j, k, hj, hbefore, hk⟩
    · exact ⟨_, _, hall hallOk, hconfigured _ le_rfl, rfl⟩
    · exact ⟨_, _, hfailed j k hj hbefore hk, hconfigured _ (List.length_take_le' _ _), rfl⟩

/-- Each command, by its own rule, within its row of R303's table. -/
theorem exec_issuesAtMost (i : Instr) : IssuesAtMost (worstTransactions s.params i) i s := by
  cases i with
  | setacc acc => exact (setacc_writesOneRegister acc).issuesAtMost hs (State.setAccelRange_traffic acc)
  | setgyr gyr => exact (setgyr_writesOneRegister gyr).issuesAtMost hs (State.setGyroRange_traffic gyr)
  | setdiv d => exact (setdiv_writesOneRegister d).issuesAtMost hs (State.setDivider_traffic d)
  | wake => exact wake_writesOneRegister.issuesAtMost hs fun _ => rfl
  | enint => exact enint_issuesAtMost hs
  | find first last => exact find_issuesAtMost hs first last
  | init acc gyr d => exact init_issuesAtMost hs acc gyr d
  | read => exact read_issuesAtMost hs

end Commands

/-- Settles O35: a command that has a next state was accepted by an Idle block. -/
theorem commandsIssueBoundedTransactions : Obligations.CommandsIssueBoundedTransactions := by
  intro s t i h
  have hs : s.seq = .idle := (runCommand_next ((exec_eq_runCommand i s).symm.trans h)).1
  obtain ⟨u, rs, hexec, hlength, htraffic⟩ := exec_issuesAtMost hs i
  obtain rfl := Host.Outcome.next.inj (hexec.symm.trans h)
  simp only [State.traffic, Prod.mk.injEq] at htraffic
  obtain ⟨hrequests, hanswers, hdrawn⟩ := htraffic
  exact ⟨rs, hrequests, hlength, hanswers, hdrawn⟩

end Sys2Proof.Machine
end

section
/-! PROOFS. The decoder against the encoder, the operand table and the opcode table (spec/30_encoding.md R91, R93, R98,
R103): a word decodes to a command exactly when its byte fields are the command's, and the byte fields that fit the
operand table are those of the commands. -/

namespace Sys2Proof

/-! ### Range codes -/

@[simp] theorem AccelRange.ofCode_code (acc : AccelRange) : AccelRange.ofCode acc.code = acc := by cases acc <;> rfl

@[simp] theorem GyroRange.ofCode_code (gyr : GyroRange) : GyroRange.ofCode gyr.code = gyr := by cases gyr <;> rfl

@[simp] theorem AccelRange.code_ofCode : ∀ c : BitVec 2, (AccelRange.ofCode c).code = c := by decide

@[simp] theorem GyroRange.code_ofCode : ∀ c : BitVec 2, (GyroRange.ofCode c).code = c := by decide

@[simp] theorem toNat_rangeByte (c : BitVec 2) : (rangeByte c).toNat = c.toNat :=
  BitVec.toNat_setWidth_of_le (by decide)

/-- R93, as the decoder reads it: bits 7:2 are zero and the code stands in bits 1:0. -/
theorem eq_rangeByte_iff_extract (v : Byte) (c : BitVec 2) :
    v = rangeByte c ↔ v.extractLsb' 2 6 = 0#6 ∧ v.extractLsb' 0 2 = c := by
  have hv := v.isLt
  have hhigh : (v.extractLsb' 2 6).toNat = v.toNat / 4 := by
    rw [BitVec.extractLsb'_toNat, Nat.shiftRight_eq_div_pow]
    omega
  have hlow : (v.extractLsb' 0 2).toNat = v.toNat % 4 := by simp
  simp only [← BitVec.toNat_inj, toNat_rangeByte, hhigh, hlow, BitVec.toNat_ofNat]
  omega

/-- R93, as the operand table reads it. -/
theorem exists_eq_rangeByte_iff (v : Byte) : (∃ c, v = rangeByte c) ↔ v.toNat < 4 := by
  constructor
  · rintro ⟨c, rfl⟩
    exact (toNat_rangeByte c).trans_lt c.isLt
  · intro hv
    refine ⟨BitVec.ofNat 2 v.toNat, BitVec.eq_of_toNat_eq ?_⟩
    rw [toNat_rangeByte, BitVec.toNat_ofNat, Nat.mod_eq_of_lt hv]

/-! ### The decoder -/

@[simp] theorem RawCommand.zeroField_eq_ok_iff (r : RawCommand) (field : OperandField) (v : Byte) (u : Unit) :
    r.zeroField field v = .ok u ↔ v = 0 := by
  simp [RawCommand.zeroField]

@[simp] theorem RawCommand.rangeField_eq_ok_iff (r : RawCommand) (field : OperandField) (v : Byte) (c : BitVec 2) :
    r.rangeField field v = .ok c ↔ v = rangeByte c := by
  rw [eq_rangeByte_iff_extract, RawCommand.rangeField]
  split
  · next h => simp [h]
  · next h => exact ⟨nofun, fun hv => absurd hv.1 h⟩

@[simp] theorem RawCommand.zeroField_zero (r : RawCommand) (field : OperandField) : r.zeroField field 0#8 = .ok () :=
  (r.zeroField_eq_ok_iff field 0 ()).2 rfl

@[simp] theorem RawCommand.rangeField_rangeByte (r : RawCommand) (field : OperandField) (c : BitVec 2) :
    r.rangeField field (rangeByte c) = .ok c :=
  (r.rangeField_eq_ok_iff field _ c).2 rfl

@[simp] theorem ok_bind {ε α β : Type} (a : α) (f : α → Except ε β) : (Except.ok a >>= f) = f a := rfl

theorem bind_eq_ok_iff {ε α β : Type} (x : Except ε α) (f : α → Except ε β) (b : β) :
    (x >>= f) = .ok b ↔ ∃ a, x = .ok a ∧ f a = .ok b := by
  cases x with
  | ok a => simp
  | error e => exact ⟨nofun, nofun⟩

theorem pure_eq_ok_iff {ε α : Type} (a b : α) : (pure a : Except ε α) = .ok b ↔ a = b :=
  Iff.of_eq (Except.ok.injEq a b)

theorem RawCommand.decode_fields (i : Instr) : i.fields.decode = .ok i := by
  cases i <;> simp [RawCommand.decode, Instr.fields]

/-- An opcode byte by its number, as the tables of R91 and R92 name it. -/
theorem eq_ofNat_of_toNat {op : Byte} {k : Nat} (h : op.toNat = k) : op = BitVec.ofNat 8 k := by
  rw [← h, BitVec.ofNat_toNat, BitVec.setWidth_eq]

/-- R103 in both directions: the decoder reads a command exactly from that command's byte fields. -/
theorem RawCommand.decode_eq_ok_iff (r : RawCommand) (i : Instr) : r.decode = .ok i ↔ r = i.fields := by
  constructor
  · intro h
    obtain ⟨op, a, b, c⟩ := r
    unfold RawCommand.decode at h
    split at h
    case h_9 => cases h
    all_goals
      rename_i hop
      obtain rfl := eq_ofNat_of_toNat hop
      simp only [bind_eq_ok_iff, pure_eq_ok_iff, zeroField_eq_ok_iff, rangeField_eq_ok_iff, exists_and_left,
        exists_const] at h
    case h_1 | h_2 =>
      obtain ⟨code, rfl, rfl, rfl, rfl⟩ := h
      simp [Instr.fields]
    case h_3 =>
      obtain ⟨rfl, rfl, rfl⟩ := h
      rfl
    case h_4 | h_5 | h_8 =>
      obtain ⟨rfl, rfl, rfl, rfl⟩ := h
      rfl
    case h_6 =>
      obtain ⟨rfl, rfl⟩ := h
      rfl
    case h_7 =>
      obtain ⟨accCode, rfl, gyrCode, rfl, rfl⟩ := h
      simp [Instr.fields]
  · rintro rfl
    exact decode_fields i

theorem decode_eq_ok_iff (w : CommandWord) (i : Instr) : decode w = .ok i ↔ w = encode i := by
  rw [decode, RawCommand.decode_eq_ok_iff]
  constructor
  · exact fun h => (RawCommand.toWord_ofWord w).symm.trans (congrArg RawCommand.toWord h)
  · rintro rfl
    exact RawCommand.ofWord_toWord i.fields

/-- Settles O8: the byte fields of a command's word are the command's. -/
theorem decodeOfEncodeIsIdentity : Obligations.DecodeOfEncodeIsIdentity := fun i => (decode_eq_ok_iff _ i).2 rfl

/-- Settles O9: the byte fields of a word that decodes are its command's, and they are the whole word. -/
theorem encodeOfDecodeIsIdentity : Obligations.EncodeOfDecodeIsIdentity := fun w i h =>
  ((decode_eq_ok_iff w i).1 h).symm

/-! ### The operand table -/

theorem FieldKind.accepts_zero_iff (v : Byte) : FieldKind.zero.accepts v = true ↔ v = 0 := beq_iff_eq

theorem FieldKind.accepts_range_iff (v : Byte) : FieldKind.range.accepts v = true ↔ ∃ c, v = rangeByte c := by
  rw [exists_eq_rangeByte_iff, FieldKind.accepts, decide_eq_true_iff]

/-- R91: byte fields that fit the operand table are a command's. -/
theorem RawCommand.exists_fields_of_wellFormed {r : RawCommand} (h : r.wellFormed = true) :
    ∃ i : Instr, r = i.fields := by
  obtain ⟨op, a, b, c⟩ := r
  cases hkinds : operandKinds op with
  | none => simp [RawCommand.wellFormed, hkinds] at h
  | some kinds =>
    obtain ⟨ka, kb, kc⟩ := kinds
    simp only [RawCommand.wellFormed, hkinds, Bool.and_eq_true] at h
    obtain ⟨⟨ha, hb⟩, hc⟩ := h
    unfold operandKinds at hkinds
    split at hkinds <;> cases hkinds
    all_goals
      rename_i hop
      obtain rfl := eq_ofNat_of_toNat hop
      simp only [FieldKind.accepts_zero_iff, FieldKind.accepts_range_iff] at ha hb hc
    case h_1 =>
      obtain ⟨code, rfl⟩ := ha
      exact ⟨.setacc (.ofCode code), by simp [Instr.fields, hb, hc]⟩
    case h_2 =>
      obtain ⟨code, rfl⟩ := ha
      exact ⟨.setgyr (.ofCode code), by simp [Instr.fields, hb, hc]⟩
    case h_3 => exact ⟨.setdiv a, by simp [Instr.fields, hb, hc]⟩
    case h_4 => exact ⟨.wake, by simp [Instr.fields, ha, hb, hc]⟩
    case h_5 => exact ⟨.enint, by simp [Instr.fields, ha, hb, hc]⟩
    case h_6 => exact ⟨.find a b, by simp [Instr.fields, hc]⟩
    case h_7 =>
      obtain ⟨accCode, rfl⟩ := ha
      obtain ⟨gyrCode, rfl⟩ := hb
      exact ⟨.init (.ofCode accCode) (.ofCode gyrCode) c, by simp [Instr.fields]⟩
    case h_8 => exact ⟨.read, by simp [Instr.fields, ha, hb, hc]⟩

/-- Every command's word fits the operand table and is selected by the command's row. -/
theorem encodedWord (i : Instr) : Laws.EncodedWord.Statement i := by
  cases i with
  | setacc acc => exact Laws.EncodedWord.setacc acc
  | setgyr gyr => exact Laws.EncodedWord.setgyr gyr
  | setdiv d => exact Laws.EncodedWord.setdiv d
  | wake => exact Laws.EncodedWord.wake
  | enint => exact Laws.EncodedWord.enint
  | find first last => exact Laws.EncodedWord.find first last
  | init acc gyr d => exact Laws.EncodedWord.init acc gyr d
  | read => exact Laws.EncodedWord.read

theorem exists_decode_of_wordWellFormed {w : CommandWord} (h : wordWellFormed w = true) : ∃ i, decode w = .ok i := by
  obtain ⟨i, hi⟩ := RawCommand.exists_fields_of_wellFormed h
  exact ⟨i, (RawCommand.decode_eq_ok_iff _ i).2 hi⟩

/-- Settles O11: well-formed byte fields are a command's, and a word that decodes is a command's, which fits. -/
theorem decodeAcceptsExactlyWellFormedWords : Obligations.DecodeAcceptsExactlyWellFormedWords := by
  refine fun w => ⟨exists_decode_of_wordWellFormed, fun hw => ?_⟩
  cases h : decode w with
  | error why => exact ⟨why, rfl⟩
  | ok i =>
    obtain rfl := (decode_eq_ok_iff w i).1 h
    obtain ⟨hfits, -⟩ := encodedWord i
    rw [hfits] at hw
    cases hw

/-! ### The opcode table -/

/-- The bits of an operand byte that its field fixes at zero (R93, R98). -/
def FieldKind.mask : FieldKind → Byte
  | .zero => 0xFF
  | .range => 0xFC
  | .byte => 0x00

theorem FieldKind.accepts_of_and_mask {kind : FieldKind} {v : Byte} (h : v &&& kind.mask = 0) :
    kind.accepts v = true := by
  revert v
  cases kind <;> decide

/-- The match of a command's row is its opcode, and its mask is the opcode's bits and those its fields fix. -/
theorem Instr.matchMask_eq (i : Instr) :
    ∃ ka kb kc, operandKinds i.fields.op = some (ka, kb, kc) ∧
      i.matchMask =
        ((RawCommand.mk i.fields.op 0 0 0).toWord, (RawCommand.mk 0xFF ka.mask kb.mask kc.mask).toWord) := by
  cases i <;> exact ⟨_, _, _, rfl, by simp only [Instr.matchMask, Instr.fields, FieldKind.mask]; decide⟩

theorem Instr.matchMask_congr {i j : Instr} (h : i.fields.op = j.fields.op) : i.matchMask = j.matchMask := by
  obtain ⟨ka, kb, kc, hkinds, hrow⟩ := i.matchMask_eq
  obtain ⟨ka', kb', kc', hkinds', hrow'⟩ := j.matchMask_eq
  rw [h, hkinds'] at hkinds
  cases hkinds
  rw [hrow, hrow', h]

theorem RawCommand.ofWord_and (w m : CommandWord) :
    RawCommand.ofWord (w &&& m) =
      ⟨(ofWord w).op &&& (ofWord m).op, (ofWord w).a &&& (ofWord m).a, (ofWord w).b &&& (ofWord m).b,
        (ofWord w).c &&& (ofWord m).c⟩ := by
  simp only [RawCommand.ofWord, BitVec.extractLsb'_and]

/-- A word that a command's row selects has the command's opcode, and its operand bytes fit that opcode's fields. -/
theorem opcode_and_wellFormed_of_selected {w : CommandWord} {i : Instr} (h : w &&& i.matchMask.2 = i.matchMask.1) :
    (RawCommand.ofWord w).op = i.fields.op ∧ wordWellFormed w = true := by
  obtain ⟨ka, kb, kc, hkinds, hrow⟩ := i.matchMask_eq
  have hfields := congrArg RawCommand.ofWord h
  rw [hrow, RawCommand.ofWord_and, RawCommand.ofWord_toWord, RawCommand.ofWord_toWord, RawCommand.mk.injEq] at hfields
  obtain ⟨hop, ha, hb, hc⟩ := hfields
  replace hop : (RawCommand.ofWord w).op = i.fields.op := BitVec.and_allOnes.symm.trans hop
  refine ⟨hop, ?_⟩
  simp only [wordWellFormed, RawCommand.wellFormed, hop, hkinds, FieldKind.accepts_of_and_mask ha,
    FieldKind.accepts_of_and_mask hb, FieldKind.accepts_of_and_mask hc, Bool.and_self]

/-- Settles O10: a word that decodes is its command's, and one that a row selects is of the row's opcode and fits. -/
theorem decodeFollowsOpcodeTable : Obligations.DecodeFollowsOpcodeTable := by
  refine fun w i => ⟨fun hdecode => ?_, fun hselected => ?_⟩
  · obtain rfl := (decode_eq_ok_iff w i).1 hdecode
    exact (encodedWord i).2
  · obtain ⟨hop, hfits⟩ := opcode_and_wellFormed_of_selected hselected
    obtain ⟨j, hj⟩ := exists_decode_of_wordWellFormed hfits
    refine ⟨j, hj, Instr.matchMask_congr ?_⟩
    rw [← hop, (RawCommand.decode_eq_ok_iff _ j).1 hj]

end Sys2Proof
end

section
/-! PROOFS. The word of each command as the sum of its fields that R106 writes (spec/30_encoding.md §4), and sample lines
of assembler text. -/

namespace Sys2Proof

theorem toNat_zeroExtend_shiftLeft (v : Byte) {k : Nat} (hk : k ≤ 24) :
    (v.zeroExtend 32 <<< k).toNat = v.toNat * 2 ^ k := by
  have hfits : v.toNat * 2 ^ k < 2 ^ 32 :=
    calc v.toNat * 2 ^ k < 2 ^ 8 * 2 ^ k := Nat.mul_lt_mul_of_pos_right v.isLt (Nat.two_pow_pos k)
      _ = 2 ^ (8 + k) := (Nat.pow_add 2 8 k).symm
      _ ≤ 2 ^ 32 := Nat.pow_le_pow_right two_pos (by omega)
  rw [BitVec.toNat_shiftLeft, BitVec.toNat_setWidth_of_le (by decide), Nat.shiftLeft_eq, Nat.mod_eq_of_lt hfits]

theorem toNat_append_eq_add {m n : Nat} (x : BitVec m) (y : BitVec n) :
    (x ++ y).toNat = x.toNat * 2 ^ n + y.toNat := by
  rw [BitVec.toNat_append, ← Nat.shiftLeft_add_eq_or_of_lt y.isLt, Nat.shiftLeft_eq]

/-- R90 as a sum: each byte field times the place of its lowest bit. -/
theorem RawCommand.toWord_eq_add (r : RawCommand) :
    r.toWord =
      r.op.zeroExtend 32 + (r.a.zeroExtend 32 <<< 8) + (r.b.zeroExtend 32 <<< 16) + (r.c.zeroExtend 32 <<< 24) := by
  obtain ⟨op, a, b, c⟩ := r
  have hop := op.isLt
  have ha := a.isLt
  have hb := b.isLt
  have hc := c.isLt
  have happend : (RawCommand.mk op a b c).toWord.toNat =
      ((c.toNat * 2 ^ 8 + b.toNat) * 2 ^ 8 + a.toNat) * 2 ^ 8 + op.toNat := by
    change (c ++ b ++ a ++ op).toNat = _
    simp only [toNat_append_eq_add]
  apply BitVec.eq_of_toNat_eq
  rw [happend]
  simp only [BitVec.toNat_add, toNat_zeroExtend_shiftLeft _ (show 8 ≤ 24 by decide),
    toNat_zeroExtend_shiftLeft _ (show 16 ≤ 24 by decide), toNat_zeroExtend_shiftLeft _ (le_refl 24),
    BitVec.toNat_setWidth_of_le (show 8 ≤ 32 by decide)]
  omega

theorem zeroExtend_rangeByte : ∀ code : BitVec 2, (rangeByte code).zeroExtend 32 = code.zeroExtend 32 := by decide

end Sys2Proof

namespace Sys2Proof.Machine

theorem encode_setdiv (d : Byte) : encode (.setdiv d) = 0x00000003 + (d.zeroExtend 32 <<< 8) := by
  rw [encode, RawCommand.toWord_eq_add]
  simp [Instr.fields]

theorem encode_find (first last : Byte) :
    encode (.find first last) = 0x06 + (first.zeroExtend 32 <<< 8) + (last.zeroExtend 32 <<< 16) := by
  rw [encode, RawCommand.toWord_eq_add]
  simp [Instr.fields]

theorem encode_init (acc : AccelRange) (gyr : GyroRange) (d : Byte) :
    encode (.init acc gyr d) =
      0x07 + (acc.code.zeroExtend 32 <<< 8) + (gyr.code.zeroExtend 32 <<< 16) + (d.zeroExtend 32 <<< 24) := by
  rw [encode, RawCommand.toWord_eq_add]
  simp only [Instr.fields, zeroExtend_rangeByte]
  rfl

/-- Settles O12: by the sum of the byte fields, form by form. -/
theorem encodeMatchesAssemblerForms : Obligations.EncodeMatchesAssemblerForms :=
  ⟨encode_setacc, encode_setgyr, encode_setdiv, rfl, rfl, encode_find, encode_init, rfl⟩

/-- Settles O13: by assembling each line. -/
theorem sampleLinesAssemble : Obligations.SampleLinesAssemble := by
  unfold Obligations.SampleLinesAssemble
  decide

end Sys2Proof.Machine
end

section
/-! PROOFS. The sensor's register bytes (spec/30_encoding.md §2) and the addresses of a scan list
(spec/41_discovery_init.md §1). -/

namespace Sys2Proof.Machine

/-- R99: the code shifted left by three is the code times eight, which fits a byte. -/
theorem toNat_encRange : ∀ c : BitVec 2, (encRange c).toNat = c.toNat * 8 := by decide

/-- Settles O14: by the codes one by one, and the divider as it is. -/
theorem registerValueEncodings : Obligations.RegisterValueEncodings :=
  ⟨⟨rfl, rfl, rfl, rfl⟩, ⟨rfl, rfl, rfl, rfl⟩, toNat_encRange, fun _ => rfl⟩

theorem mem_scanList (mode : ScanMode) (first last a : Byte) :
    a ∈ scanList mode first last ↔
      (scanBounds mode first last).1 ≤ a.toNat ∧ a.toNat < (scanBounds mode first last).2 := by
  obtain ⟨-, -, hhi⟩ := scanBounds_le mode first last
  exact mem_addressSpan (hhi.trans (by decide)) a

theorem addressSpan_pairwise_lt {lo hi : Nat} (hhi : hi ≤ 256) :
    (addressSpan lo hi).Pairwise fun a b => a.toNat < b.toNat := by
  rw [addressSpan, List.pairwise_map]
  refine List.Pairwise.imp_of_mem (fun {m n} hm hn hlt => ?_) (List.pairwise_lt_range' 1)
  rw [List.mem_range'_1] at hm hn
  rwa [BitVec.toNat_ofNat, BitVec.toNat_ofNat, Nat.mod_eq_of_lt (by omega), Nat.mod_eq_of_lt (by omega)]

/-- Settles O15: a scan list is the span of its bounds, of which the first is at least 1. -/
theorem scanListAddresses : Obligations.ScanListAddresses := by
  refine ⟨mem_scanList .bounded, fun first last a => ?_, fun mode first last => ?_⟩
  · rw [mem_scanList]
    exact and_congr_right' Nat.lt_succ_iff
  · obtain ⟨hlo, -, hhi⟩ := scanBounds_le mode first last
    refine ⟨addressSpan_pairwise_lt (hhi.trans (by decide)), fun hzero => ?_⟩
    exact absurd (hlo.trans ((mem_scanList mode first last 0).1 hzero).1) (by decide)

end Sys2Proof.Machine
end

section
/-! PROOFS. The power-on state (spec/10_state.md R42), how a step of an Idle block begins (R34, R104), and the sample
words and calibrated values of spec/95_test_vectors.md. -/

namespace Sys2Proof.Machine

/-- Settles O1: by the power-on state as it is written, a file of equal entries showing that entry. -/
theorem resetHoldsPowerOnValues : Obligations.ResetHoldsPowerOnValues :=
  ⟨rfl, Seven.get_replicate _, Seven.get_replicate _, rfl, rfl, rfl⟩

/-- Settles O2: no request has been issued and no command runs. -/
theorem resetMeetsBlockInvariant : Obligations.ResetMeetsBlockInvariant :=
  ⟨⟨rfl, fun _ hr => absurd hr List.not_mem_nil⟩, trivial⟩

/-- Settles O3: by decoding each word. -/
theorem sampleWordsDecode : Obligations.SampleWordsDecode := by
  unfold Obligations.SampleWordsDecode
  decide

theorem step_of_idle_nil {s : State} (hs : s.seq = .idle) (hc : s.commands = []) : step s = .next s := by
  simp only [step, hs, hc]

section Accept

variable {s : State} {w : CommandWord} {rest : List CommandWord}

theorem step_of_decode_ok (hs : s.seq = .idle) (hc : s.commands = w :: rest) {i : Instr} (hw : decode w = .ok i) :
    step s = exec i { s with commands := rest } := by
  simp only [step, hs, hc, hw]

theorem step_of_decode_error (hs : s.seq = .idle) (hc : s.commands = w :: rest) {why : DecodeError}
    (hw : decode w = .error why) : step s = .refused (.wordRefused why) := by
  simp only [step, hs, hc, hw]

end Accept

/-- Settles O4: an Idle block with a word that decodes. -/
theorem stepRunsDecodedCommand : Obligations.StepRunsDecodedCommand := fun _ _ _ _ hs hc =>
  step_of_decode_ok hs hc

/-- Settles O5: an Idle block with a word that does not decode. -/
theorem stepRefusesUndecodableWord : Obligations.StepRefusesUndecodableWord := fun _ _ _ _ hs hc =>
  step_of_decode_error hs hc

/-- Settles O6: an Idle block with no word. -/
theorem idleBlockWaits : Obligations.IdleBlockWaits := fun _ => step_of_idle_nil

/-- Settles O7: every meaning runs its command from an Idle block only. -/
theorem busyBlockTakesNoCommand : Obligations.BusyBlockTakesNoCommand := by
  intro s i j p l hs
  rw [exec_eq_runCommand, runCommand, hs]

/-- Settles O49: by rounding each exact value. -/
theorem sampleCalibrations : Obligations.SampleCalibrations := by
  unfold Obligations.SampleCalibrations
  decide +kernel

end Sys2Proof.Machine
end
